-- ==== Sys2Proof/Config.lean ====
section
/-! DEFINITION. The constants of the block as named fields (spec 00_scope.md R7, R8; 92_eei_decisions.md D17), the
open parameters, and the free values the spec leaves unspecified. -/

namespace Sys2Proof.Config

/-- `BYTE_BITS` (R7): the width of a stream byte. -/
@[simp] abbrev byteBits : Nat := 8
/-- `VALUE_BITS` (R7): the width of the decoded value. -/
@[simp] abbrev valueBits : Nat := 32

/-- `START` (R7, R42). -/
abbrev startMarker : BitVec byteBits := 0xFE#8
/-- `END` (R7, R42). -/
abbrev endMarker : BitVec byteBits := 0xFF#8
/-- `PAYLOAD_LEN` (R7, R44). -/
@[simp] abbrev payloadLen : Nat := 4
/-- `FRAME_LEN` (R7, R41). -/
@[simp] abbrev frameLen : Nat := 7
/-- `IDX_MAX` = 6 (R7, R16): the last of the frame's byte offsets 0..`FRAME_LEN`-1, which are the values of `idx` (R30). -/
@[simp] abbrev idxMax : Nat := frameLen - 1
/-- The value of `idx` at which payload byte `k` is awaited, 2 + `k`: the payload stands just before the end marker (R30,
R41). -/
@[simp] abbrev payloadIdx (k : Nat) : Nat := idxMax - payloadLen + k
/-- `IDX_BITS` (R8): the width of a register that holds `idx`. -/
@[simp] abbrev idxBits : Nat := 3
/-- `TYPE_POSITION` (R7, R43). -/
abbrev typePosition : BitVec byteBits := 0#8
/-- `TYPE_CURRENT` (R7, R43). -/
abbrev typeCurrent : BitVec byteBits := 1#8

/-- Outbound: the length byte of a simple command (R89). -/
abbrev simpleLength : BitVec byteBits := 0#8
/-- Outbound: the code of the program command (R91); the simple command `start` has it too (R93). -/
abbrev programCode : BitVec byteBits := 4#8
/-- Outbound: the length byte of the program command (R91). -/
abbrev programLength : BitVec byteBits := 9#8
/-- Outbound: the factor that scales `step` and `delay` (R92). -/
abbrev scaleFactor : Int := 1000
/-- Outbound: the largest scaled value for which the scaling is defined (R92). -/
abbrev scaledMax : Int := 2147483647

/-- `VALUE_READING` (R8, R68): how the host reads the 32-bit pattern as an integer. -/
inductive ValueReading where
  | signed
  | unsigned
deriving DecidableEq, Repr

/-- Free value (log entry 2): what `typ` holds where the spec leaves it unspecified (R17, R25, R82; 93 U5 "any
value"). The argument is the count of free values used so far. -/
opaque freeTyp : Nat → BitVec byteBits

/-- Free value (log entry 3): what a buffer byte beyond the fill length shows if something reads it (R18, R24; 93 U5
"any value"). The arguments are the count of free values used so far and the buffer address. -/
opaque freeBuf : Nat → Nat → BitVec byteBits

/-- Free value (log entry 31): the count byte of a program command whose count is a number but no integer; "coerced via
numeric truncation" is all the spec quotes of it (R91). The arguments are the count's numerator and denominator. -/
opaque freeCount : Int → Nat → BitVec byteBits

end Sys2Proof.Config
end

