-- ==== Sys2Proof/Word.lean ====
section
/-! DEFINITION. The widths of the block: a stream byte, the decoded value, the step word (spec 00_scope.md R7, R11;
30_encoding.md R48). -/

namespace Sys2Proof

/-- A stream byte, bit 7 most significant (R11; the width is `BYTE_BITS` of R7, log entry 26). -/
abbrev Byte := BitVec Config.byteBits

/-- A value pattern, bit 31 most significant (R11; the width is `VALUE_BITS` of R7). -/
abbrev Value := BitVec Config.valueBits

/-- A value of `idx` (R16; the width is `IDX_BITS` of R8). -/
abbrev Index := BitVec Config.idxBits

/-- The value of `idx` that is the byte offset `n` of the frame (R30). -/
def frameIdx (n : Nat) : Index := BitVec.ofNat Config.idxBits n

/-- The 16-bit step word `W` of R48. -/
abbrev StepWord := BitVec 16

end Sys2Proof
end

