-- ==== Sys2Proof/Syntax.lean ====
section
/-! DEFINITION. The operations of the block as syntax: one constructor per mnemonic of spec/opcode_table.json, the four
formats of its rows, and an operation word as bits. -/

namespace Sys2Proof

/-- The operations (R49 STEP, R50 TYPE8, R89 and R91 the outbound formats). A byte operation carries the input byte
`b` where the operation's pattern leaves bits of it open; a marker byte is fixed and carried nowhere. -/
inductive Instr where
  /-- RESET, R82. -/
  | reset
  /-- HALTED.HOLD, R83. -/
  | haltedHold
  /-- ERR, R84. -/
  | err
  /-- EOS, R85. -/
  | eos
  /-- IDLE, R86. -/
  | idle
  /-- SYNC.HIT, R54: the start marker at `idx == 0`. -/
  | syncHit
  /-- SYNC.SKIP, R55: any other byte at `idx == 0`. -/
  | syncSkip (b : Byte)
  /-- TYPE, R56. -/
  | typeByte (b : Byte)
  /-- PAY0, R57. -/
  | pay0 (b : Byte)
  /-- PAY1, R58. -/
  | pay1 (b : Byte)
  /-- PAY2, R59. -/
  | pay2 (b : Byte)
  /-- PAY3, R60. -/
  | pay3 (b : Byte)
  /-- END.HIT, R61: the end marker at `idx == 6`. -/
  | endHit
  /-- END.ABSORB, R62: any other byte at `idx == 6`. -/
  | endAbsorb (b : Byte)
  /-- RESERVED.IDX7, R51 (d). -/
  | reservedIdx7 (b : Byte)
  /-- DEC.BE32, R66, for a known type. -/
  | decBe32 (t : Byte)
  /-- DEC.ZERO, R67, for every other type. -/
  | decZero (t : Byte)
  /-- ENC.SIMPLE, R89. -/
  | encSimple (code : Byte)
  /-- ENC.PROGRAM, R91: `step` and `delay` already scaled, `count` already one byte. -/
  | encProgram (step delay : Value) (count : Byte)
deriving DecidableEq, Repr

/-- The operations without their operands, for the rows of the opcode map. -/
inductive Op where
  | reset | haltedHold | err | eos | idle
  | syncHit | syncSkip | typeByte | pay0 | pay1 | pay2 | pay3 | endHit | endAbsorb | reservedIdx7
  | decBe32 | decZero | encSimple | encProgram
deriving DecidableEq, Repr

/-- Which operation a term is. -/
def Instr.op : Instr → Op
  | .reset => .reset
  | .haltedHold => .haltedHold
  | .err => .err
  | .eos => .eos
  | .idle => .idle
  | .syncHit => .syncHit
  | .syncSkip _ => .syncSkip
  | .typeByte _ => .typeByte
  | .pay0 _ => .pay0
  | .pay1 _ => .pay1
  | .pay2 _ => .pay2
  | .pay3 _ => .pay3
  | .endHit => .endHit
  | .endAbsorb _ => .endAbsorb
  | .reservedIdx7 _ => .reservedIdx7
  | .decBe32 _ => .decBe32
  | .decZero _ => .decZero
  | .encSimple _ => .encSimple
  | .encProgram _ _ _ => .encProgram

/-- An operation word, one constructor per format of spec/opcode_table.json. A word of several bytes has its first
byte in the most significant place, as the table's patterns are written. -/
inductive OpWord where
  /-- STEP: the 16-bit step word (R48). -/
  | step (w : StepWord)
  /-- TYPE8: the decode selector `T = typ` (R50). -/
  | type8 (t : Byte)
  /-- TX4: the 4-byte outbound frame (R89). -/
  | tx4 (w : BitVec 32)
  /-- TX13: the 13-byte outbound frame (R91). -/
  | tx13 (w : BitVec 104)
deriving DecidableEq, Repr

/-- Why the decoder refuses bits. The step word and the type selector are total, so only outbound words and lengths
that are no format's are refused. -/
inductive Reject where
  /-- The number of bits is no format's. -/
  | noSuchFormat
  /-- A 4-byte word that is not `FE c 00 FF` (R89). -/
  | notASimpleFrame
  /-- A 13-byte word that is not `FE 04 09 … FF` (R91). -/
  | notAProgramFrame
deriving DecidableEq, Repr

end Sys2Proof
end

