-- ==== Sys2Proof/WellFormed.lean ====
section
/-! DEFINITION. Which terms of `Instr` are operations of the block: the conditions the opcode map puts on an operand
(spec 30_encoding.md R49, R50). -/

namespace Sys2Proof

/-- The operand lies in the operation's pattern: SYNC.SKIP "any byte but `11111110`", END.ABSORB "any byte but
`11111111`" (R49), DEC.BE32 `T` is 0 or 1, DEC.ZERO any other `T` (R50). -/
def Instr.wellFormed : Instr → Bool
  | .syncSkip b => b != Config.startMarker
  | .endAbsorb b => b != Config.endMarker
  | .decBe32 t => t == Config.typePosition || t == Config.typeCurrent
  | .decZero t => t != Config.typePosition && t != Config.typeCurrent
  | .reset | .haltedHold | .err | .eos | .idle | .syncHit | .typeByte _ | .pay0 _ | .pay1 _ | .pay2 _ | .pay3 _
  | .endHit | .reservedIdx7 _ | .encSimple _ | .encProgram _ _ _ => true

end Sys2Proof
end

