-- ==== Sys2Proof/Decode.lean ====
section
/-! DEFINITION. The decoder, total on any bits and refusing by name, the rows of the opcode map as data, and the
encoder (spec 30_encoding.md R48 to R51; 45_outbound_encoder.md R89, R91; spec/opcode_table.json). -/

namespace Sys2Proof

/-! ### The fields of the step word (R48) -/

/-- `W[15]`, `rst`. -/
def StepWord.rst (w : StepWord) : Bool := w.getLsbD 15
/-- `W[14]`, `halted`. -/
def StepWord.halted (w : StepWord) : Bool := w.getLsbD 14
/-- `W[13]`, `err`. -/
def StepWord.err (w : StepWord) : Bool := w.getLsbD 13
/-- `W[12]`, `eos`. -/
def StepWord.eos (w : StepWord) : Bool := w.getLsbD 12
/-- `W[11]`, `valid`. -/
def StepWord.valid (w : StepWord) : Bool := w.getLsbD 11
/-- `W[10:8]`, `idx`. -/
def StepWord.idx (w : StepWord) : Index := w.extractLsb' 8 3
/-- `W[7:0]`, `byte`. -/
def StepWord.byte (w : StepWord) : Byte := w.extractLsb' 0 8

/-- The operation of an accepted byte: the table of R53, keyed by `idx`; `idx` 7 is reserved (R51 (d)). -/
def decodeByteOp (idx : Index) (b : Byte) : Instr :=
  if idx.toNat = 0 then (if b = Config.startMarker then .syncHit else .syncSkip b)
  else if idx.toNat = 1 then .typeByte b
  else if idx.toNat = Config.payloadIdx 0 then .pay0 b
  else if idx.toNat = Config.payloadIdx 1 then .pay1 b
  else if idx.toNat = Config.payloadIdx 2 then .pay2 b
  else if idx.toNat = Config.payloadIdx 3 then .pay3 b
  else if idx.toNat = Config.idxMax then (if b = Config.endMarker then .endHit else .endAbsorb b)
  else .reservedIdx7 b

/-- The operation a step word selects (R49), with the priority of R99. -/
def decodeStep (w : StepWord) : Instr :=
  if StepWord.rst w then .reset
  else if StepWord.halted w then .haltedHold
  else if StepWord.err w then .err
  else if StepWord.eos w then .eos
  else if StepWord.valid w then decodeByteOp (StepWord.idx w) (StepWord.byte w)
  else .idle

/-- The decode operation the type byte selects (R50): DEC.BE32 exactly for the two known types, `T[7:1] == 0`. -/
def decodeType8 (t : Byte) : Instr :=
  if t = Config.typePosition ∨ t = Config.typeCurrent then .decBe32 t else .decZero t

/-- The outbound simple frame `FE c 00 FF` (R89), first byte most significant. -/
def decodeTx4 (w : BitVec 32) : Except Reject Instr :=
  if w.extractLsb' 24 8 = Config.startMarker ∧ w.extractLsb' 8 8 = Config.simpleLength
      ∧ w.extractLsb' 0 8 = Config.endMarker then
    .ok (.encSimple (w.extractLsb' 16 8))
  else .error .notASimpleFrame

/-- The outbound program frame `FE 04 09 s s s s d d d d n FF` (R91), first byte most significant. -/
def decodeTx13 (w : BitVec 104) : Except Reject Instr :=
  if w.extractLsb' 96 8 = Config.startMarker ∧ w.extractLsb' 88 8 = Config.programCode
      ∧ w.extractLsb' 80 8 = Config.programLength ∧ w.extractLsb' 0 8 = Config.endMarker then
    .ok (.encProgram (w.extractLsb' 48 32) (w.extractLsb' 16 32) (w.extractLsb' 8 8))
  else .error .notAProgramFrame

/-- The decoder. -/
def decode : OpWord → Except Reject Instr
  | .step w => .ok (decodeStep w)
  | .type8 t => .ok (decodeType8 t)
  | .tx4 w => decodeTx4 w
  | .tx13 w => decodeTx13 w

/-- The operation word that `nbits` bits are, numbered as spec/opcode_table.json numbers them: the width names the
format. -/
def OpWord.ofBits (nbits w : Nat) : Option OpWord :=
  match nbits with
  | 8 => some (.type8 (BitVec.ofNat 8 w))
  | 16 => some (.step (BitVec.ofNat 16 w))
  | 32 => some (.tx4 (BitVec.ofNat 32 w))
  | 104 => some (.tx13 (BitVec.ofNat 104 w))
  | _ => none

/-- Bytes, first byte leftmost, as one number. -/
def bytesToNat (bs : List Byte) : Nat := bs.foldl (fun n b => n * 2 ^ Config.byteBits + b.toNat) 0

/-- The decoder on any bytes, first byte leftmost (log entry 27). -/
def decodeBytes (bs : List Byte) : Except Reject Instr :=
  match OpWord.ofBits (8 * bs.length) (bytesToNat bs) with
  | some ow => decode ow
  | none => .error .noSuchFormat

/-- The operation the decoder reads from `nbits` bits numbered as the opcode table numbers them. -/
def decodeTableWord (nbits w : Nat) : Option Instr :=
  match OpWord.ofBits nbits w with
  | some ow => (decode ow).toOption
  | none => none

/-- A byte step's word, `W = 0x0800 | (idx << 8) | byte` (R49). -/
def encodeByteStep (idx : Index) (b : Byte) : StepWord :=
  0x0800#16 ||| (idx.setWidth 16 <<< 8) ||| b.setWidth 16

/-! ### The opcode map as the spec writes it: mask, match and operation of each row -/

/-- A row of the opcode map. -/
structure OpRow (n : Nat) where
  mask : BitVec n
  pat  : BitVec n
  op   : Op
deriving DecidableEq, Repr

/-- A word matches a row when it agrees with the pattern on the mask. -/
def OpRow.hits {n : Nat} (r : OpRow n) (w : BitVec n) : Bool := w &&& r.mask == r.pat

/-- The top `k + 1` bits of a byte. -/
def topBits (k : Nat) : Byte := BitVec.allOnes Config.byteBits <<< (Config.byteBits - 1 - k)

/-- "Any byte but `v`" is one row for each `k` (R49): the top `k` bits of the byte equal to those of `v`, bit `7 - k`
unequal, the rest don't care. -/
def butPat (v : Byte) (k : Nat) : Byte := (v ^^^ (BitVec.twoPow Config.byteBits (Config.byteBits - 1) >>> k)) &&& topBits k

/-- The 8 rows of "idx `n` with any byte but `v`" (R49). -/
def butRows (n : Index) (v : Byte) (op : Op) : List (OpRow 16) :=
  (List.range Config.byteBits).map (fun k => ⟨0xFF00#16 ||| (topBits k).setWidth 16, encodeByteStep n (butPat v k), op⟩)

/-- The rows of R49 for the control events, and the one-row byte operations. -/
def stepRowsPlain : List (OpRow 16) :=
  [⟨0x8000#16, 0x8000#16, .reset⟩, ⟨0xC000#16, 0x4000#16, .haltedHold⟩, ⟨0xE000#16, 0x2000#16, .err⟩,
   ⟨0xF000#16, 0x1000#16, .eos⟩, ⟨0xF800#16, 0x0000#16, .idle⟩,
   ⟨0xFFFF#16, encodeByteStep (frameIdx 0) Config.startMarker, .syncHit⟩,
   ⟨0xFF00#16, encodeByteStep (frameIdx 1) 0#8, .typeByte⟩,
   ⟨0xFF00#16, encodeByteStep (frameIdx (Config.payloadIdx 0)) 0#8, .pay0⟩,
   ⟨0xFF00#16, encodeByteStep (frameIdx (Config.payloadIdx 1)) 0#8, .pay1⟩,
   ⟨0xFF00#16, encodeByteStep (frameIdx (Config.payloadIdx 2)) 0#8, .pay2⟩,
   ⟨0xFF00#16, encodeByteStep (frameIdx (Config.payloadIdx 3)) 0#8, .pay3⟩,
   ⟨0xFFFF#16, encodeByteStep (frameIdx Config.idxMax) Config.endMarker, .endHit⟩,
   ⟨0xFF00#16, encodeByteStep (frameIdx (Config.idxMax + 1)) 0#8, .reservedIdx7⟩]

/-- The 29 step-word rows of R49. -/
def stepRows : List (OpRow 16) :=
  stepRowsPlain ++ butRows (frameIdx 0) Config.startMarker .syncSkip ++ butRows (frameIdx Config.idxMax) Config.endMarker .endAbsorb

/-- The 8 type-byte rows of R50. The known types differ in bit 0 only, so one row without that bit is both of them, and
the 7 rows of any other byte follow from the bits above it. -/
def type8Rows : List (OpRow Config.byteBits) :=
  ⟨~~~(Config.typePosition ^^^ Config.typeCurrent), Config.typePosition, .decBe32⟩
    :: (List.range (Config.byteBits - 1)).map (fun k => ⟨topBits k, butPat Config.typePosition k, .decZero⟩)

/-! ### The encoder, written from the same tables -/

/-- The operation word of an operation; bits that the operation's pattern leaves as don't-care are 0. -/
def encode : Instr → OpWord
  | .reset => .step 0x8000#16
  | .haltedHold => .step 0x4000#16
  | .err => .step 0x2000#16
  | .eos => .step 0x1000#16
  | .idle => .step 0x0000#16
  | .syncHit => .step (encodeByteStep (frameIdx 0) Config.startMarker)
  | .syncSkip b => .step (encodeByteStep (frameIdx 0) b)
  | .typeByte b => .step (encodeByteStep (frameIdx 1) b)
  | .pay0 b => .step (encodeByteStep (frameIdx (Config.payloadIdx 0)) b)
  | .pay1 b => .step (encodeByteStep (frameIdx (Config.payloadIdx 1)) b)
  | .pay2 b => .step (encodeByteStep (frameIdx (Config.payloadIdx 2)) b)
  | .pay3 b => .step (encodeByteStep (frameIdx (Config.payloadIdx 3)) b)
  | .endHit => .step (encodeByteStep (frameIdx Config.idxMax) Config.endMarker)
  | .endAbsorb b => .step (encodeByteStep (frameIdx Config.idxMax) b)
  | .reservedIdx7 b => .step (encodeByteStep (frameIdx (Config.idxMax + 1)) b)
  | .decBe32 t => .type8 t
  | .decZero t => .type8 t
  | .encSimple c => .tx4 (Config.startMarker ++ c ++ Config.simpleLength ++ Config.endMarker)
  | .encProgram s d n => .tx13 (Config.startMarker ++ Config.programCode ++ Config.programLength ++ s ++ d ++ n
      ++ Config.endMarker)

end Sys2Proof
end

