-- ==== Sys2Proof/Machine/State.lean ====
section
/-! DEFINITION. The machine's state as plain data: the four elements of spec 10_state.md R15, the ports of
43_stream_control.md R80, the host's side of the output interface (42_dispatch_interface.md R72 to R79), what may be
observed (00_scope.md R10), and the reasons a step can stop. -/

namespace Sys2Proof.Machine

/-- The payload buffer (R18, R29): the defined bytes as (address, byte) pairs, addresses strictly rising in 0..3. An
unlisted address has no value (log entry 3). -/
abbrev Memory := List Host.Cell

/-- What the environment puts on the control inputs in one parser step (R80). `offer` is `in_valid`; the byte offered
is the head of `State.stream`. -/
structure Signals where
  rst   : Bool
  err   : Bool
  eos   : Bool
  offer : Bool
deriving DecidableEq, Repr

/-- The outbound command names (R90); `other` stands for any name outside the seven. -/
inductive CommandName where
  | stop
  | right
  | left
  | shutter
  | start
  | pause
  | reset
  | other
deriving DecidableEq, Repr

/-- A number as a quotient; a denominator of 0 is no number. -/
structure Ratio where
  num : Int
  den : Nat
deriving DecidableEq, Repr

/-- A fractional input of `sendProgram` (R92): its exact value, and the product with 1000 that the host's own
arithmetic gave, whatever its format and rounding (log entry 17). -/
structure HostNumber where
  value   : Ratio
  product : Ratio
deriving DecidableEq, Repr

/-- What the host can do between two parser steps, and (but for `closeTransport`) from inside a handler. -/
inductive HostCall where
  /-- REGISTER (R73). -/
  | register (key : Int) (handler : Nat)
  /-- A registration from a context not synchronised with the dispatching one (R119; 93 U7). -/
  | registerUnsync (key : Int) (handler : Nat)
  /-- `encodeSimpleCommand(commandCode)` and its write (R89, R94). -/
  | sendSimple (code : Byte)
  /-- `sendCommand(name)` (R90, R94). -/
  | sendCommand (name : CommandName)
  /-- The program command on integers already scaled (R88, R91). -/
  | sendProgramInt (step delay : Value) (count : Int)
  /-- `sendProgram(step, delay, count)` with the scaling of R92; the count is a number, or none. -/
  | sendProgram (step delay : HostNumber) (count : Ratio)
  /-- `connect(baudRate)` (R87); from inside a handler it is refused (log entry 28). -/
  | connect (baud : Nat)
  /-- The host closes the Transport (R85 corner case (c)). -/
  | closeTransport
deriving DecidableEq, Repr

/-- How a handler's run ends (R76, R78). -/
inductive HandlerEnd where
  /-- It returns (`msg_done`). -/
  | returns
  /-- It throws (HANDLER_FAULT_POLICY, R8, R78). -/
  | throws
  /-- It never returns (R78). -/
  | neverReturns
deriving DecidableEq, Repr

/-- What one handler call does: its host calls in order, and its end. -/
structure HandlerRun where
  acts   : List HostCall
  ending : HandlerEnd
deriving DecidableEq, Repr

/-- What the environment presents next. -/
inductive Input where
  /-- One parser step with these control inputs. -/
  | ports (p : Signals)
  /-- The decoder run alone on `typ` and `buf`, at any `idx`: the model's own, the spec runs it inside END.HIT only (R65;
  log entry 15). -/
  | decoder
  /-- A host call between two parser steps. -/
  | call (c : HostCall)
deriving DecidableEq, Repr

/-- A DecodedMessage (R65, R70): the full type byte and the 32-bit pattern. -/
structure Msg where
  type  : Byte
  value : Value
deriving DecidableEq, Repr

/-- A handler invocation (R10 (b), R74): the handler and its one argument. -/
structure Call where
  handler : Nat
  arg     : Int
deriving DecidableEq, Repr

/-- The CallbackRegistry (R72): integer key to one handler, keys strictly rising. -/
abbrev Registry := List (Int × Nat)

/-- The output ports in the step just taken (R80). `msg` present is `msg_valid`; `dec` is the decoder's result, which
exists in that step only (R23 (c)). The port `halted` is the state flag. -/
structure Outputs where
  inReady   : Bool
  dec       : Option Msg
  msg       : Option Msg
  closeReq  : Bool
  rdRelease : Bool
deriving DecidableEq, Repr

/-- What may be observed over a run (R10), and the outbound side's calls of the Transport (R87, R94). -/
structure Observed where
  trace      : List Msg
  calls      : List Call
  closeReqs  : Nat
  rdReleases : Nat
  sent       : List (List Byte)
  opens      : List Nat
deriving DecidableEq, Repr

/-- The host's side of the output interface, which no operation of the parser but a dispatch and RESET touches (R23 (a),
R72). `connected` says that the connection of this run has begun (R87; log entry 14). -/
structure HostSide where
  registry    : Registry
  handlerRuns : List HandlerRun
  reading     : Config.ValueReading
  connected   : Bool
deriving DecidableEq, Repr

/-- The state. `idx`, `typ`, `buf`, `halted` are the spec's architectural state (R15); `free` is the model's own
counter of free values (log entry 4). -/
structure State where
  idx    : Index
  typ    : Byte
  buf    : Memory
  halted : Bool
  inputs : List Input
  stream : List Byte
  out    : Outputs
  host   : HostSide
  seen   : Observed
  free   : Nat
deriving DecidableEq, Repr

/-- Stuck states. The block itself raises no fault (R96). -/
inductive Fault where
  /-- Raised by a dispatch whose handler never returns: the parser stays inside END.HIT for ever (R78, 93 U8). Safe:
  no later step is claimed. -/
  | handlerNeverReturns
deriving DecidableEq, Repr

/-- Runs to which the spec gives no meaning. -/
inductive Refusal where
  /-- Raised by `exec`'s arms only, for an operation that has no meaning yet. Safe: nothing is claimed of it. -/
  | notModelled (mnemonic : String)
  /-- Raised by RESERVED.IDX7: `idx == 7` is no state (R51 (d), 93 U4). Safe: unreachable from reset. -/
  | reservedIdx7
  /-- Raised by a dispatch whose handler throws, HANDLER_FAULT_POLICY being open (R78, 93 U8). Safe. -/
  | handlerThrows
  /-- Raised by a handler that closes the Transport (R103, R118, 93 U6). Safe. -/
  | handlerClosesTransport
  /-- Raised by an unsynchronised registration (R119, 93 U7). Safe. -/
  | unsynchronisedRegistration
  /-- Raised by `sendCommand` of a name outside the seven (R90, 93 U13). Safe. -/
  | unknownCommandName
  /-- Raised by `sendProgram` outside the scaling's domain ("anything else is refused", R92, 93 U10) and for a count that
  is no number (92 D20). Safe. -/
  | programOutsideDomain
  /-- Raised by a `connect` with no reset since a connection began: by a second one, by one after the connection's
  events, by one in a state that is not the reset state, and by one from a handler (R87, 92 D15, 93 U12). Safe. -/
  | secondConnection
deriving DecidableEq, Repr

/-- No port driven. -/
def Outputs.quiet : Outputs :=
  { inReady := false, dec := none, msg := none, closeReq := false, rdRelease := false }

/-- Right after reset (R25): `idx == 0`, `buf` empty, `halted == 0`, `typ` unspecified (the free value 0, log entry 2),
the ports idle; the registry empty (R72); nothing presented and nothing observed yet (log entries 1, 19). -/
def State.reset : State where
  idx := frameIdx 0
  typ := Config.freeTyp 0
  buf := []
  halted := false
  inputs := []
  stream := []
  out := Outputs.quiet
  host := { registry := [], handlerRuns := [], reading := .signed, connected := false }
  seen := { trace := [], calls := [], closeReqs := 0, rdReleases := 0, sent := [], opens := [] }
  free := 1

end Sys2Proof.Machine
end

