-- ==== Sys2Proof/Machine/Flags.lean ====
section
/-! DEFINITION. The predicates and the ready signal (spec 10_state.md R20, R21; 43_stream_control.md R81). `halted` is
the only stored flag; the byte operations never write it. -/

namespace Sys2Proof.Machine

/-- `is_known` (R21): the type is Position or Current, tested by the decoder only. -/
def isKnown (t : Byte) : Bool := t == Config.typePosition || t == Config.typeCurrent

/-- `in_ready` (R81): no reset, not halted, no error, no end-of-stream; the wait for `msg_done` is inside END.HIT. -/
def inReady (p : Signals) (s : State) : Bool := !p.rst && !s.halted && !p.err && !p.eos

end Sys2Proof.Machine
end

