-- ==== Sys2Proof/Machine/Operands.lean ====
section
/-! DEFINITION. Every operand form: the step word and the input byte, the big-endian value, the two integer readings,
and the operands of the outbound commands (spec 30_encoding.md R47, R48; 41_decoder.md R65, R68; 45_outbound_encoder.md
R90 to R92). -/

namespace Sys2Proof.Machine

/-! ### The input byte and the step word -/

/-- The byte on offer in this step, if one is (R80: `in_valid` with `in_data`). -/
def offered (p : Signals) (s : State) : Option Byte := if p.offer then s.stream.head? else none

/-- `in_data`, the step word's byte; 00 when no byte is offered (log entry 6: no operation reads it then). -/
def inData (p : Signals) (s : State) : Byte := (offered p s).getD 0#Config.byteBits

/-- `W[11]`: a byte is offered and accepted in this step (R48, R81). -/
def accepts (p : Signals) (s : State) : Bool := (offered p s).isSome && inReady p s

/-- A one-bit field at bit `n` of the step word. -/
def bitAt (v : Bool) (n : Nat) : StepWord := (BitVec.ofBool v).setWidth 16 <<< n

/-- The step word `W` (R48): `W[15]` rst, `W[14]` halted, `W[13]` err, `W[12]` eos, `W[11]` valid, `W[10:8]` idx,
`W[7:0]` byte. -/
def stepWord (p : Signals) (s : State) : StepWord :=
  bitAt p.rst 15 ||| bitAt s.halted 14 ||| bitAt p.err 13 ||| bitAt p.eos 12 ||| bitAt (accepts p s) 11
    ||| (s.idx.setWidth 16 <<< 8) ||| (inData p s).setWidth 16

/-- No event (R86). -/
def Signals.none : Signals := { rst := false, err := false, eos := false, offer := false }
/-- The Transport offers a byte and nothing else happens. -/
def Signals.byteOffer : Signals := { Signals.none with offer := true }
/-- The Transport reports end-of-stream. -/
def Signals.endOfStream : Signals := { Signals.none with eos := true }

/-! ### The decoded value -/

/-- `be32` (R47): each byte zero-extended to 32 bits, shifted by 24, 16, 8 and 0, that is by whole bytes, combined with
OR. -/
def be32 (b0 b1 b2 b3 : Byte) : Value :=
  (b0.setWidth Config.valueBits <<< (3 * Config.byteBits)) ||| (b1.setWidth Config.valueBits <<< (2 * Config.byteBits))
    ||| (b2.setWidth Config.valueBits <<< Config.byteBits) ||| b3.setWidth Config.valueBits

/-- `Decode(t, b0, b1, b2, b3)` (R65). -/
def decodeValue (t b0 b1 b2 b3 : Byte) : Value := if isKnown t then be32 b0 b1 b2 b3 else 0#Config.valueBits

/-- `n(v)` (R68, R74): the integer reading of the pattern, two's complement when signed. -/
def readValue (r : Config.ValueReading) (v : Value) : Int :=
  match r with
  | .unsigned => (v.toNat : Int)
  | .signed => v.toInt

/-! ### Operands of the outbound commands -/

/-- The code of a command name (R90); a name outside the seven has none. -/
def commandCode : CommandName → Option Byte
  | .stop => some 0#8
  | .right => some 1#8
  | .left => some 2#8
  | .shutter => some 3#8
  | .start => some 4#8
  | .pause => some 5#8
  | .reset => some 6#8
  | .other => none

/-- `n <- count & 0xFF` (R91). -/
def countByte (count : Int) : Byte := BitVec.ofInt Config.byteBits count

/-- The count byte of a numeric count: an integer's low byte (R91). Of a number that is no integer, such as 3.7, the spec
gives no byte, so it is a free value (log entry 31); what is no number has none (92 D20). -/
def programCount (q : Ratio) : Option Byte :=
  if q.den = 0 then none
  else if q.num % q.den = 0 then some (countByte (q.num / q.den))
  else some (Config.freeCount q.num q.den)

/-- Truncation toward zero of a quotient; none if it is no number. -/
def Ratio.trunc (q : Ratio) : Option Int := if q.den = 0 then none else some (q.num.tdiv q.den)

/-- The scaling of R92: defined when the exact product with 1000 truncates to an integer in 0..2147483647 and the
host's own product truncates to the same integer. -/
def scale (x : HostNumber) : Option Value :=
  match Ratio.trunc ⟨x.value.num * Config.scaleFactor, x.value.den⟩, Ratio.trunc x.product with
  | some a, some b =>
    if a = b ∧ 0 ≤ a ∧ a ≤ Config.scaledMax then some (BitVec.ofInt Config.valueBits a) else none
  | _, _ => none

/-- The frame of ENC.SIMPLE (R89). -/
def simpleFrame (code : Byte) : List Byte := [Config.startMarker, code, Config.simpleLength, Config.endMarker]

/-- A 32-bit field, most significant byte first (R91). -/
def beBytes (v : Value) : List Byte :=
  [v.extractLsb' (3 * Config.byteBits) Config.byteBits, v.extractLsb' (2 * Config.byteBits) Config.byteBits,
   v.extractLsb' Config.byteBits Config.byteBits, v.extractLsb' 0 Config.byteBits]

/-- The frame of ENC.PROGRAM (R91). -/
def programFrame (step delay : Value) (count : Byte) : List Byte :=
  [Config.startMarker, Config.programCode, Config.programLength] ++ beBytes step ++ beBytes delay
    ++ [count, Config.endMarker]

end Sys2Proof.Machine
end

