-- ==== Sys2Proof/Machine/Ops.lean ====
section
/-! DEFINITION. The shared operations over the buffer, the registers and the ports, each written once (spec 00_scope.md
R12): buffer access, consuming a byte, taking the halt and leaving it, re-arming, emitting, writing to the Transport. -/

namespace Sys2Proof.Machine

/-! ### The payload buffer (R12, R18, R29, R64) -/

/-- The canonical form of the buffer: addresses strictly rising, all in 0..3. -/
abbrev Memory.wf (m : Memory) : Prop :=
  m.Pairwise (fun x y => x.1 < y.1) ∧ ∀ c ∈ m, c.1 < Config.payloadLen

/-- The byte at an address; none where the address is unlisted (beyond the fill length). -/
def Memory.load : Memory → Nat → Option Byte
  | [], _ => none
  | (a, b) :: m, k => if a = k then some b else Memory.load m k

/-- The fill length: one more than the last defined address, 0 when empty. -/
def Memory.fill (m : Memory) : Nat :=
  match m.getLast? with
  | none => 0
  | some c => c.1 + 1

/-- `MemWrite(k, 1, b)` (R12, R29): the byte at `k` becomes `b` and the fill length `k+1`; bytes below `k` stay. -/
def Memory.store (m : Memory) (k : Fin Config.payloadLen) (b : Byte) : Memory := m.filter (fun c => decide (c.1 < k.val)) ++ [(k.val, b)]

/-- A buffer byte as END.HIT and the decoder read it. A byte beyond the fill length is unspecified (R18, R24): a free
value (log entry 3). In the states reachable from reset END.HIT never reads one (R19); the decoder run alone, which is
the model's own, does at `idx` 0 to 5 (log entry 15). -/
def bufByte (s : State) (k : Nat) : Byte := (Memory.load s.buf k).getD (Config.freeBuf s.free k)

/-- `Decode(typ', buf[0..3])` with the type byte `t` (R65). -/
def decodedMsg (t : Byte) (s : State) : Msg :=
  { type := t, value := decodeValue t (bufByte s 0) (bufByte s 1) (bufByte s 2) (bufByte s 3) }

/-! ### Registers and ports -/

/-- A byte operation reads its byte, which consumes it (R34, R35). -/
def consume (s : State) : State := { s with stream := s.stream.tail }

/-- `idx <- n`. -/
def setIdx (n : Index) (s : State) : State := { s with idx := n }

/-- `typ <- v`. -/
def setTyp (v : Byte) (s : State) : State := { s with typ := v }

/-- `MemWrite(k, 1, b)` on the state. -/
def storeByte (k : Fin Config.payloadLen) (b : Byte) (s : State) : State := { s with buf := Memory.store s.buf k b }

/-- `typ` becomes unspecified (R17, R82): the next free value. -/
def forgetTyp (s : State) : State := { s with typ := Config.freeTyp s.free, free := s.free + 1 }

/-- `idx <- 0`, `buf <- []`, `typ` unspecified: the re-arm of END.HIT (R61), and part of RESET (R82). -/
def rearm (s : State) : State := forgetTyp { s with idx := frameIdx 0, buf := [] }

/-- The decoder's output in this step (R65). -/
def driveDecoder (m : Msg) (s : State) : State := { s with out := { s.out with dec := some m } }

/-- The message port (R70, R71): the message is emitted in this step. -/
def emit (m : Msg) (s : State) : State :=
  { s with out := { s.out with msg := some m }, seen := { s.seen with trace := s.seen.trace ++ [m] } }

/-- `pulse(rd_release)`. -/
def pulseRdRelease (s : State) : State :=
  { s with out := { s.out with rdRelease := true }, seen := { s.seen with rdReleases := s.seen.rdReleases + 1 } }

/-- `pulse(close_req)`. -/
def pulseCloseReq (s : State) : State :=
  { s with out := { s.out with closeReq := true }, seen := { s.seen with closeReqs := s.seen.closeReqs + 1 } }

/-! ### The halt, this block's exception entry, and the way out of it -/

/-- The causes of a halt (R12). -/
inductive HaltCause where
  | eos
  | err
deriving DecidableEq, Repr

/-- Halt entry (R84, R85, R100): `halted <- 1` and `rd_release`, with `close_req` on end-of-stream; nothing is saved,
nothing is vectored, `idx`, `typ` and `buf` stay. -/
def takeHalt (c : HaltCause) (s : State) : State :=
  match c with
  | .err => pulseRdRelease { s with halted := true }
  | .eos => pulseCloseReq (pulseRdRelease { s with halted := true })

/-- RESET, the only way out of the halt (R82, R102): the state of R25; a new run begins, with no connection yet (R87,
log entry 14). Bytes the Transport still holds stay in `stream`, for the next run to read: the spec does not say what
becomes of them, so that is the model's choice (log entry 30). -/
def resetBlock (s : State) : State :=
  rearm { s with halted := false, host := { s.host with connected := false } }

/-! ### The outbound side and the start of a step -/

/-- `write(bytes)` (R88, R94): one frame handed to the Transport. -/
def transmit (bytes : List Byte) (s : State) : State :=
  { s with seen := { s.seen with sent := s.seen.sent ++ [bytes] } }

/-- What every step begins with: the ports of the step before are gone (pulses and messages last one step, R12, R70),
and `in_ready` is driven (R81). -/
def beginStep (p : Signals) (s : State) : State := { s with out := { Outputs.quiet with inReady := inReady p s } }

/-- An event of a connection: a byte accepted, an end-of-stream or a read error taken (R87, R99). -/
def connectionEvent (p : Signals) (s : State) : Bool :=
  !p.rst && !s.halted && (p.err || p.eos || (offered p s).isSome)

/-- The connection of this run has begun once one of its events has come (R87: a run is one RESET followed by the events
of one connection; log entry 14). -/
def beginConnection (p : Signals) (s : State) : State :=
  { s with host := { s.host with connected := s.host.connected || connectionEvent p s } }

/-- The parser is in the reset state (R25; `typ` is unspecified there). -/
def atReset (s : State) : Bool := s.idx == frameIdx 0 && s.buf == [] && !s.halted

/-- The Transport delivers a chunk (R27, R28): its bytes join the stream, and each is offered in a step of its own. A
chunk boundary leaves no mark; an empty chunk causes no step. -/
def deliver (chunk : List Byte) (s : State) : State :=
  { s with stream := s.stream ++ chunk, inputs := s.inputs ++ chunk.map (fun _ => .ports Signals.byteOffer) }

/-- Go on with a next state; a stop stays a stop. -/
def andThen (o : Host.Outcome State Fault Refusal) (f : State → Host.Outcome State Fault Refusal) :
    Host.Outcome State Fault Refusal :=
  match o with
  | .next s => f s
  | .fault r => .fault r
  | .refused r => .refused r

end Sys2Proof.Machine
end

