-- ==== Sys2Proof/Machine/Control.lean ====
section
/-! DEFINITION. The control operations (spec 43_stream_control.md R82 to R86) and the reserved word (30_encoding.md R51
(d)). None of them consumes a byte. -/

namespace Sys2Proof.Machine

/-- RESET (R82): no message, no `close_req`, no `rd_release`. -/
def execReset (s : State) : Host.Outcome State Fault Refusal := .next (resetBlock s)

/-- HALTED.HOLD (R83): no state change, nothing consumed, nothing driven. -/
def execHaltedHold (s : State) : Host.Outcome State Fault Refusal := .next s

/-- ERR (R84): the loop ends; `rd_release`, no `close_req`. -/
def execErr (s : State) : Host.Outcome State Fault Refusal := .next (takeHalt .err s)

/-- EOS (R85): the loop ends; `rd_release` and `close_req`. -/
def execEos (s : State) : Host.Outcome State Fault Refusal := .next (takeHalt .eos s)

/-- IDLE (R86): no state change. -/
def execIdle (s : State) : Host.Outcome State Fault Refusal := .next s

/-- RESERVED.IDX7 (R51 (d)): "The spec gives it no meaning"; refused, never a transition. -/
def execReservedIdx7 (_b : Byte) (_s : State) : Host.Outcome State Fault Refusal := .refused .reservedIdx7

end Sys2Proof.Machine
end

