-- ==== Sys2Proof/Machine/Decoder.lean ====
section
/-! DEFINITION. The decoder's operations (spec 41_decoder.md R65 to R67): pure, they read the buffer and write no
state; the result is on the decoder's output in this step only. -/

namespace Sys2Proof.Machine

/-- DEC.BE32 (R66): `value <- be32(b0, b1, b2, b3)`. -/
def execDecBe32 (t : Byte) (s : State) : Host.Outcome State Fault Refusal :=
  .next (driveDecoder ⟨t, be32 (bufByte s 0) (bufByte s 1) (bufByte s 2) (bufByte s 3)⟩ s)

/-- DEC.ZERO (R67): `value <- 0x00000000`, the payload ignored. -/
def execDecZero (t : Byte) (s : State) : Host.Outcome State Fault Refusal := .next (driveDecoder ⟨t, 0#Config.valueBits⟩ s)

end Sys2Proof.Machine
end

