-- ==== Sys2Proof/Machine/Outbound.lean ====
section
/-! DEFINITION. The companion block's operations: ENC.SIMPLE and ENC.PROGRAM (spec 45_outbound_encoder.md R88 to R91).
They read and write nothing of the parser. -/

namespace Sys2Proof.Machine

/-- ENC.SIMPLE (R89): `out <- [0xFE, commandCode, 0x00, 0xFF]`, handed to `write`. -/
def execEncSimple (code : Byte) (s : State) : Host.Outcome State Fault Refusal :=
  .next (transmit (simpleFrame code) s)

/-- ENC.PROGRAM (R91): the 13-byte frame, handed to `write`. -/
def execEncProgram (step delay : Value) (count : Byte) (s : State) : Host.Outcome State Fault Refusal :=
  .next (transmit (programFrame step delay count) s)

end Sys2Proof.Machine
end

