-- ==== Sys2Proof/Machine/HostCalls.lean ====
section
/-! DEFINITION. The host's side of the output interface: registry, host calls, handler runs and dispatch (spec
42_dispatch_interface.md R72 to R79; 43_stream_control.md R85, R87; 45_outbound_encoder.md R90 to R94). -/

namespace Sys2Proof.Machine

/-! ### The registry (R72, R73) -/

/-- The canonical form of the registry: keys strictly rising. -/
abbrev Registry.wf (r : Registry) : Prop := r.Pairwise (fun x y => x.1 < y.1)

/-- The handler registered for a key. -/
def Registry.find : Registry → Int → Option Nat
  | [], _ => none
  | (k, h) :: r, key => if k = key then some h else Registry.find r key

/-- `reg[k] <- h` (R73): the last registration wins. -/
def Registry.set : Registry → Int → Nat → Registry
  | [], key, handler => [(key, handler)]
  | (k, h) :: r, key, handler =>
    if key < k then (key, handler) :: (k, h) :: r
    else if key = k then (key, handler) :: r
    else (k, h) :: Registry.set r key handler

/-! ### Host calls -/

/-- REGISTER (R73): parser state is not touched. -/
def registerHandler (key : Int) (handler : Nat) (s : State) : State :=
  { s with host := { s.host with registry := Registry.set s.host.registry key handler } }

/-- `sendCommand(name)` (R90): the name's code goes to ENC.SIMPLE; an unknown name has no meaning (93 U13). -/
def sendNamed (name : CommandName) (s : State) : Host.Outcome State Fault Refusal :=
  match commandCode name with
  | some code => execEncSimple code s
  | none => .refused .unknownCommandName

/-- `sendProgram(step, delay, count)` (R92, R94): scaled, then ENC.PROGRAM; refused outside the domain of the scaling
("anything else is refused", R92) and for a count that is no number (92 D20). A count that is no integer is sent, with a
free count byte (log entry 31). -/
def sendScaled (step delay : HostNumber) (count : Ratio) (s : State) : Host.Outcome State Fault Refusal :=
  match scale step, scale delay, programCount count with
  | some a, some d, some n => execEncProgram a d n s
  | _, _, _ => .refused .programOutsideDomain

/-- `connect(baudRate)` (R87): the Transport is opened at the rate, which never reaches the block, and "the parser starts
from the reset state". The Transport is opened first, before any event of the connection; a connect with no reset since
a connection began has no meaning (92 D15, 93 U12). Bytes of an earlier connection that were never accepted are still in
`stream`, the model's choice (log entry 30). -/
def connect (baud : Nat) (s : State) : Host.Outcome State Fault Refusal :=
  if !s.host.connected && atReset s then
    .next { s with host := { s.host with connected := true }, seen := { s.seen with opens := s.seen.opens ++ [baud] } }
  else .refused .secondConnection

/-- A host call between two parser steps. A send is recorded at any time, before a connection and after its end too: the
spec speaks of writes while the connection is open only (R94), so that is the model's choice (log entry 29). Closing the Transport is seen by the block as an end-of-stream (R85 (c)):
it is presented in the very next step (log entry 13). -/
def hostCall (c : HostCall) (s : State) : Host.Outcome State Fault Refusal :=
  match c with
  | .register key handler => .next (registerHandler key handler s)
  | .registerUnsync _ _ => .refused .unsynchronisedRegistration
  | .sendSimple code => execEncSimple code s
  | .sendCommand name => sendNamed name s
  | .sendProgramInt step delay count => execEncProgram step delay (countByte count) s
  | .sendProgram step delay count => sendScaled step delay count s
  | .connect baud => connect baud s
  | .closeTransport => .next { s with inputs := .ports Signals.endOfStream :: s.inputs }

/-! ### Handler runs and dispatch -/

/-- A host call made by a handler (R76): as between steps, but a handler must not close the Transport (R103, R118), and
its connect, of which R76 does not speak, is refused: the connection whose frame it handles has begun, so it would be a
second one (93 U12; log entry 28). -/
def handlerCall (c : HostCall) (s : State) : Host.Outcome State Fault Refusal :=
  match c with
  | .closeTransport => .refused .handlerClosesTransport
  | .register key handler => hostCall (.register key handler) s
  | .registerUnsync key handler => hostCall (.registerUnsync key handler) s
  | .sendSimple code => hostCall (.sendSimple code) s
  | .sendCommand name => hostCall (.sendCommand name) s
  | .sendProgramInt step delay count => hostCall (.sendProgramInt step delay count) s
  | .sendProgram step delay count => hostCall (.sendProgram step delay count) s
  | .connect _ => .refused .secondConnection

/-- The host calls of a handler, in order. -/
def handlerCalls : List HostCall → State → Host.Outcome State Fault Refusal
  | [], s => .next s
  | c :: cs, s => andThen (handlerCall c s) (handlerCalls cs)

/-- The end of a handler's run (R76, R78, 93 U8). -/
def finishHandler (e : HandlerEnd) (s : State) : Host.Outcome State Fault Refusal :=
  match e with
  | .returns => .next s
  | .throws => .refused .handlerThrows
  | .neverReturns => .fault .handlerNeverReturns

/-- The next handler run, all of it inside the current step (R71). With none listed the handler returns and calls
nothing (log entry 10). -/
def runHandler (s : State) : Host.Outcome State Fault Refusal :=
  match s.host.handlerRuns with
  | [] => .next s
  | r :: rs => andThen (handlerCalls r.acts { s with host := { s.host with handlerRuns := rs } }) (finishHandler r.ending)

/-- A handler is called with the integer reading of the value (R74). -/
def recordCall (handler : Nat) (v : Value) (s : State) : State :=
  { s with seen := { s.seen with calls := s.seen.calls ++ [⟨handler, readValue s.host.reading v⟩] } }

/-- `dispatch(t, v)` (R74, R75): the registry as it is now; an absent handler drops the message silently. -/
def dispatch (m : Msg) (s : State) : Host.Outcome State Fault Refusal :=
  match Registry.find s.host.registry (m.type.toNat : Int) with
  | some handler => runHandler (recordCall handler m.value s)
  | none => .next s

end Sys2Proof.Machine
end

