-- ==== Sys2Proof/Machine/Framer.lean ====
section
/-! DEFINITION. The framer's byte operations (spec 40_framer.md R54 to R62). Each consumes one byte (R34). The `require`
line of a rule is what its encoding selects (log entry 8). -/

namespace Sys2Proof.Machine

/-- SYNC.HIT (R54): `idx <- 1`. -/
def execSyncHit (s : State) : Host.Outcome State Fault Refusal :=
  .next (setIdx (frameIdx 1) (consume s))

/-- SYNC.SKIP (R55): the byte is consumed and leaves no trace. -/
def execSyncSkip (_b : Byte) (s : State) : Host.Outcome State Fault Refusal := .next (consume s)

/-- TYPE (R56): `typ <- b`, `idx <- 2`. -/
def execTypeByte (b : Byte) (s : State) : Host.Outcome State Fault Refusal :=
  .next (setIdx (frameIdx (Config.payloadIdx 0)) (setTyp b (consume s)))

/-- PAY0 (R57): `MemWrite(0, 1, b)`, `idx <- 3`. -/
def execPay0 (b : Byte) (s : State) : Host.Outcome State Fault Refusal :=
  .next (setIdx (frameIdx (Config.payloadIdx 1)) (storeByte 0 b (consume s)))

/-- PAY1 (R58): `MemWrite(1, 1, b)`, `idx <- 4`. -/
def execPay1 (b : Byte) (s : State) : Host.Outcome State Fault Refusal :=
  .next (setIdx (frameIdx (Config.payloadIdx 2)) (storeByte 1 b (consume s)))

/-- PAY2 (R59): `MemWrite(2, 1, b)`, `idx <- 5`. -/
def execPay2 (b : Byte) (s : State) : Host.Outcome State Fault Refusal :=
  .next (setIdx (frameIdx (Config.payloadIdx 3)) (storeByte 2 b (consume s)))

/-- PAY3 (R60): `MemWrite(3, 1, b)`, `idx <- 6`. -/
def execPay3 (b : Byte) (s : State) : Host.Outcome State Fault Refusal :=
  .next (setIdx (frameIdx Config.idxMax) (storeByte 3 b (consume s)))

/-- END.HIT (R61): decode, emit and dispatch, re-arm, in one step; the re-arm happens whether or not a handler exists
(corner case (a)). -/
def execEndHit (s : State) : Host.Outcome State Fault Refusal :=
  andThen
    (dispatch (decodedMsg s.typ s) (emit (decodedMsg s.typ s) (driveDecoder (decodedMsg s.typ s) (consume s))))
    (fun t => .next (rearm t))

/-- END.ABSORB (R62): the byte is consumed; the pending frame stays, the parser stays. -/
def execEndAbsorb (_b : Byte) (s : State) : Host.Outcome State Fault Refusal := .next (consume s)

end Sys2Proof.Machine
end

