-- ==== Sys2Proof/Machine/Dispatch.lean ====
section
/-! DEFINITION. The effect of each operation: one arm per constructor, each a direct call of its meaning. -/

namespace Sys2Proof.Machine

/-- The effect of an operation. -/
def exec (i : Instr) (s : State) : Host.Outcome State Fault Refusal :=
  match i with
  | .reset => Sys2Proof.Machine.execReset s
  | .haltedHold => Sys2Proof.Machine.execHaltedHold s
  | .err => Sys2Proof.Machine.execErr s
  | .eos => Sys2Proof.Machine.execEos s
  | .idle => Sys2Proof.Machine.execIdle s
  | .syncHit => Sys2Proof.Machine.execSyncHit s
  | .syncSkip b => Sys2Proof.Machine.execSyncSkip b s
  | .typeByte b => Sys2Proof.Machine.execTypeByte b s
  | .pay0 b => Sys2Proof.Machine.execPay0 b s
  | .pay1 b => Sys2Proof.Machine.execPay1 b s
  | .pay2 b => Sys2Proof.Machine.execPay2 b s
  | .pay3 b => Sys2Proof.Machine.execPay3 b s
  | .endHit => Sys2Proof.Machine.execEndHit s
  | .endAbsorb b => Sys2Proof.Machine.execEndAbsorb b s
  | .reservedIdx7 b => Sys2Proof.Machine.execReservedIdx7 b s
  | .decBe32 t => Sys2Proof.Machine.execDecBe32 t s
  | .decZero t => Sys2Proof.Machine.execDecZero t s
  | .encSimple code => Sys2Proof.Machine.execEncSimple code s
  | .encProgram step delay count => Sys2Proof.Machine.execEncProgram step delay count s

end Sys2Proof.Machine
end

