-- ==== Sys2Proof/Machine/Step.lean ====
section
/-! DEFINITION. One step: take what the environment presents next, form and decode the step word, and run the operation
(spec 00_scope.md R9; 30_encoding.md R48, R49; 60_exceptions.md R99). -/

namespace Sys2Proof.Machine

/-- A parser step with the given control inputs. -/
def parserStep (p : Signals) (s : State) : Host.Outcome State Fault Refusal :=
  exec (decodeStep (stepWord p s)) (beginStep p (beginConnection p s))

/-- One step. With nothing presented there is no event (R86, or R83 when halted). A host call and a run of the decoder
alone stand between two parser steps; the latter is the model's own (log entry 15). -/
def step (s : State) : Host.Outcome State Fault Refusal :=
  match s.inputs with
  | [] => parserStep Signals.none s
  | .ports p :: rest => parserStep p { s with inputs := rest }
  | .decoder :: rest => exec (decodeType8 s.typ) (beginStep Signals.none { s with inputs := rest })
  | .call c :: rest => hostCall c (beginStep Signals.none { s with inputs := rest })

/-- The control inputs, the state bits and the offered byte that make the next step word select what `w` selects. -/
def State.placeStepWord (s : State) (w : StepWord) : State :=
  { s with
    idx := StepWord.idx w
    halted := StepWord.halted w
    stream := if StepWord.valid w then StepWord.byte w :: s.stream else s.stream
    inputs := .ports { rst := StepWord.rst w, err := StepWord.err w, eos := StepWord.eos w, offer := StepWord.valid w }
      :: s.inputs }

/-- Make the very next step run an operation of the outbound side. -/
def State.placeOutbound (s : State) (i : Except Reject Instr) : State :=
  match i with
  | .ok (.encSimple code) => { s with inputs := .call (.sendSimple code) :: s.inputs }
  | .ok (.encProgram step delay count) =>
    { s with inputs := .call (.sendProgramInt step delay (count.toNat : Int)) :: s.inputs }
  | _ => s

/-- `s` with the operation word `w` placed where the next step takes it (log entry 23): a step word as control inputs,
`halted`, `idx` and offered byte; a type selector as `typ` with a run of the decoder; an outbound word as the host call
that asks for it. A word that is no operation's leaves `s` as it is. -/
def State.withFetchWord (s : State) (nbits w : Nat) : State :=
  match OpWord.ofBits nbits w with
  | some (.step v) => s.placeStepWord v
  | some (.type8 t) => { s with typ := t, inputs := .decoder :: s.inputs }
  | some (.tx4 v) => s.placeOutbound (decodeTx4 v)
  | some (.tx13 v) => s.placeOutbound (decodeTx13 v)
  | none => s

end Sys2Proof.Machine
end

