-- ==== Sys2Proof/Safety.lean ====
section
/-! DEFINITION. What claims about the machine are stated in terms of: the invariant of the reachable states (spec
10_state.md R19, R26), handlers that keep their obligations (42_dispatch_interface.md R78), what a handler's calls
leave behind, and the sequences that make one message (30_encoding.md R46). -/

namespace Sys2Proof.Machine

/-- The invariant of the reachable states: `idx` is one of 0..6 (R26 (i)); the defined buffer bytes are those at
addresses 0..`idx`-3, so the fill length is 0 at `idx` 0 and 1 and `idx - 2` at 2..6 (R19, R26 (ii)); buffer and
registry are in canonical form; before the connection of a run begins the parser is in the reset state (R87). -/
abbrev State.Inv (s : State) : Prop :=
  s.idx.toNat ≤ Config.idxMax ∧ s.buf.map (fun c => c.1) = List.range (s.idx.toNat - Config.payloadIdx 0) ∧ Memory.wf s.buf
    ∧ Registry.wf s.host.registry ∧ (s.host.connected = false → s.idx = frameIdx 0 ∧ s.halted = false)

/-- Host calls to which the spec gives a meaning when a handler makes them: registering and sending commands (R76),
inside their domains. -/
def HostCall.allowed : HostCall → Bool
  | .register _ _ => true
  | .registerUnsync _ _ => false
  | .sendSimple _ => true
  | .sendCommand name => (commandCode name).isSome
  | .sendProgramInt _ _ _ => true
  | .sendProgram step delay count => (scale step).isSome && (scale delay).isSome && (programCount count).isSome
  | .connect _ => false
  | .closeTransport => false

/-- If an END.HIT in this state calls a handler, that handler makes only calls that have a meaning, and returns: the
premise of R78. -/
def State.handlerReturns (s : State) : Prop :=
  Registry.find s.host.registry (s.typ.toNat : Int) = none ∨
    ∀ r ∈ s.host.handlerRuns.head?, r.ending = .returns ∧ r.acts.all HostCall.allowed = true

/-- The registry after a handler's calls, in order (R73, R75). -/
def actRegistry : List HostCall → Registry → Registry
  | [], r => r
  | .register key handler :: cs, r => actRegistry cs (Registry.set r key handler)
  | _ :: cs, r => actRegistry cs r

/-- The frames a host call writes (R89, R91). -/
def callFrames : HostCall → List (List Byte)
  | .sendSimple code => [simpleFrame code]
  | .sendCommand name => ((commandCode name).map simpleFrame).toList
  | .sendProgramInt step delay count => [programFrame step delay (countByte count)]
  | .sendProgram step delay count =>
    match scale step, scale delay, programCount count with
    | some a, some d, some n => [programFrame a d n]
    | _, _, _ => []
  | .register _ _ | .registerUnsync _ _ | .connect _ | .closeTransport => []

/-- The next input resets the block. -/
def State.resetsNext (s : State) : Prop := ∃ p rest, s.inputs = .ports p :: rest ∧ p.rst = true

/-- The sequences of R46: `(X)* FE T P0 P1 P2 P3 (Y)* FF` with no `FE` among the `X` and no `FF` among the `Y`, and the
message such a sequence makes. -/
def FrameSequence (bs : List Byte) (m : Msg) : Prop :=
  ∃ (xs ys : List Byte) (t p0 p1 p2 p3 : Byte),
    bs = xs ++ 0xFE#8 :: t :: p0 :: p1 :: p2 :: p3 :: (ys ++ [0xFF#8])
    ∧ 0xFE#8 ∉ xs ∧ 0xFF#8 ∉ ys
    ∧ m = ⟨t, if t = 0#8 ∨ t = 1#8 then p0 ++ p1 ++ p2 ++ p3 else 0#32⟩

/-- Chunk after chunk: each is delivered when the one before has been processed (R28). -/
def runChunks : List (List Byte) → State → Host.Outcome State Fault Refusal
  | [], s => .next s
  | c :: cs, s => andThen (Host.Core.run Sys2Proof.core c.length (deliver c s)) (runChunks cs)

/-- A safe step: it answers a next state, neither stuck nor refused. -/
def State.SafeStep (s : State) : Prop := ∃ t, step s = .next t

end Sys2Proof.Machine
end

