-- ==== Sys2Proof/Certificates/Slice0/Obligations.lean ====
section
/-! DEFINITION. The statements for the provers. Each docstring names the rule of spec/ the statement formalises.
A result statement gives the whole next state as an update of the old one, so it is its own frame: every field the
update does not name is as before. Where a register is left unspecified the statement says only that some value
stands there. -/

open Sys2Proof Sys2Proof.Machine

/-! ### Encoding -/

/-- Words written out from R48, R49, R50, R89, R91 and the vectors of 95_test_vectors.md decode to the operations they
stand for, at least one per family. -/
def Obligations.SpecWordsDecode : Prop :=
  decode (.step 0x8600#16) = .ok .reset ∧ decode (.step 0x43FF#16) = .ok .haltedHold
  ∧ decode (.step 0x3000#16) = .ok .err ∧ decode (.step 0x1300#16) = .ok .eos ∧ decode (.step 0x0200#16) = .ok .idle
  ∧ decode (.step 0x08FE#16) = .ok .syncHit ∧ decode (.step 0x087E#16) = .ok (.syncSkip 0x7E#8)
  ∧ decode (.step 0x09FE#16) = .ok (.typeByte 0xFE#8) ∧ decode (.step 0x0A12#16) = .ok (.pay0 0x12#8)
  ∧ decode (.step 0x0B34#16) = .ok (.pay1 0x34#8) ∧ decode (.step 0x0C56#16) = .ok (.pay2 0x56#8)
  ∧ decode (.step 0x0DFF#16) = .ok (.pay3 0xFF#8) ∧ decode (.step 0x0EFF#16) = .ok .endHit
  ∧ decode (.step 0x0EFE#16) = .ok (.endAbsorb 0xFE#8) ∧ decode (.step 0x0F05#16) = .ok (.reservedIdx7 0x05#8)
  ∧ decode (.type8 0x01#8) = .ok (.decBe32 0x01#8) ∧ decode (.type8 0x80#8) = .ok (.decZero 0x80#8)
  ∧ decode (.tx4 0xFE0200FF#32) = .ok (.encSimple 2#8)
  ∧ decode (.tx13 0xFE0409000005DC000000FA03FF#104) = .ok (.encProgram 1500#32 250#32 3#8)

/-- Decode and encode agree: for every well-formed operation, with every operand its encoding admits, decoding its
word gives it back. -/
def Obligations.DecodeOfEncodeIsIdentity : Prop :=
  ∀ i : Instr, i.wellFormed = true → decode (encode i) = .ok i

/-- The other direction, where a word has one meaning: outbound frames, type selectors and byte-step words. -/
def Obligations.EncodeOfDecodeIsIdentity : Prop :=
  (∀ (w : BitVec 32) (i : Instr), decode (.tx4 w) = .ok i → encode i = .tx4 w)
  ∧ (∀ (w : BitVec 104) (i : Instr), decode (.tx13 w) = .ok i → encode i = .tx13 w)
  ∧ (∀ t : Byte, encode (decodeType8 t) = .type8 t)
  ∧ (∀ w : StepWord, w.extractLsb' 11 5 = 1#5 → encode (decodeStep w) = .step w)

/-- Whatever the decoder accepts is well formed. -/
def Obligations.DecodedTermsAreWellFormed : Prop :=
  ∀ (w : OpWord) (i : Instr), decode w = .ok i → i.wellFormed = true

/-- R49: of the 29 rows of the opcode map exactly one matches each of the 65536 step words, and it is the row of the
operation the decoder gives; a byte step's word is `0x0800 | (idx << 8) | byte`. -/
def Obligations.StepOpcodeMapIsExact : Prop :=
  (∀ w : StepWord, (stepRows.filter (fun r => r.hits w)).map (fun r => r.op) = [(decodeStep w).op])
  ∧ (∀ (p : Signals) (s : State) (b : Byte), offered p s = some b → p.rst = false → s.halted = false →
      p.err = false → p.eos = false →
      stepWord p s = 0x0800#16 ||| (s.idx.setWidth 16 <<< 8) ||| b.setWidth 16)

/-- R50: of the 8 rows of the type map exactly one matches each type byte and names the decoded operation; DEC.BE32 is
selected exactly by types 0 and 1. -/
def Obligations.TypeOpcodeMapIsExact : Prop :=
  (∀ t : Byte, (type8Rows.filter (fun r => r.hits t)).map (fun r => r.op) = [(decodeType8 t).op])
  ∧ (∀ t : Byte, (t = 0#8 ∨ t = 1#8) → decodeType8 t = .decBe32 t)
  ∧ (∀ t : Byte, ¬ (t = 0#8 ∨ t = 1#8) → decodeType8 t = .decZero t)

/-- R48: the fields of the step word are the control inputs, the flag, `idx` and the input byte; `valid` says that a
byte is offered and accepted (R81). -/
def Obligations.StepWordFields : Prop :=
  ∀ (p : Signals) (s : State),
    StepWord.rst (stepWord p s) = p.rst ∧ StepWord.halted (stepWord p s) = s.halted
    ∧ StepWord.err (stepWord p s) = p.err ∧ StepWord.eos (stepWord p s) = p.eos
    ∧ (StepWord.valid (stepWord p s) = true ↔
        ((offered p s).isSome = true ∧ p.rst = false ∧ s.halted = false ∧ p.err = false ∧ p.eos = false))
    ∧ StepWord.idx (stepWord p s) = s.idx
    ∧ (∀ b, offered p s = some b → StepWord.byte (stepWord p s) = b)

/-! ### The step -/

/-- A step runs the decoded operation: a parser step runs what the step word decodes to, with the input taken, the
ports of the step before cleared, and the connection of the run marked as begun if the step is one of its events (the
mark is the model's, log entry 14); with nothing presented there is no event; a run of the decoder runs what the type
byte decodes to; a request for an outbound frame runs that encoder operation. -/
def Obligations.StepRunsDecodedOperation : Prop :=
  (∀ (s : State) (p : Signals) (rest : List Input) (i : Instr), s.inputs = .ports p :: rest →
      decode (.step (stepWord p s)) = .ok i →
      step s = exec i { s with
        inputs := rest, out := { Outputs.quiet with inReady := inReady p s }
        host := { s.host with connected := s.host.connected || connectionEvent p s } })
  ∧ (∀ (s : State) (i : Instr), s.inputs = [] → decode (.step (stepWord Signals.none s)) = .ok i →
      step s = exec i { s with out := { Outputs.quiet with inReady := !s.halted } })
  ∧ (∀ (s : State) (rest : List Input) (i : Instr), s.inputs = .decoder :: rest → decode (.type8 s.typ) = .ok i →
      step s = exec i { s with inputs := rest, out := { Outputs.quiet with inReady := !s.halted } })
  ∧ (∀ (s : State) (rest : List Input) (c : Byte), s.inputs = .call (.sendSimple c) :: rest →
      step s = exec (.encSimple c) { s with inputs := rest, out := { Outputs.quiet with inReady := !s.halted } })
  ∧ (∀ (s : State) (rest : List Input) (a d : Value) (n : Int), s.inputs = .call (.sendProgramInt a d n) :: rest →
      step s = exec (.encProgram a d (countByte n))
        { s with inputs := rest, out := { Outputs.quiet with inReady := !s.halted } })

/-- R99: the operation of a step is chosen by the fixed priority reset, halted, error, end-of-stream, accepted byte,
no event. -/
def Obligations.EventPriority : Prop :=
  ∀ (p : Signals) (s : State),
    decodeStep (stepWord p s) =
      if p.rst then .reset
      else if s.halted then .haltedHold
      else if p.err then .err
      else if p.eos then .eos
      else match offered p s with
        | some b => decodeByteOp s.idx b
        | none => .idle

/-- R81: a byte is consumed exactly when one is offered and `in_ready` is driven, which is the `valid` bit of the step
word; `in_ready` is driven exactly when there is no reset, no halt, no error and no end-of-stream (a dispatch is over
before its step ends); a byte that is not accepted stays with the Transport. -/
def Obligations.ByteConsumedExactlyWhenReady : Prop :=
  ∀ (s t : State) (p : Signals) (rest : List Input), s.inputs = .ports p :: rest → step s = .next t →
    (t.out.inReady = true ↔ (p.rst = false ∧ s.halted = false ∧ p.err = false ∧ p.eos = false))
    ∧ (StepWord.valid (stepWord p s) = true ↔ ((offered p s).isSome = true ∧ t.out.inReady = true))
    ∧ (∀ b, offered p s = some b → t.out.inReady = true → s.stream = b :: t.stream)
    ∧ ((offered p s = none ∨ t.out.inReady = false) → t.stream = s.stream)

/-- R96: every byte and every control event, in every state with `idx` in 0..6, has a next state: no fault, no refusal
(the premise on handlers is R78's). -/
def Obligations.EveryEventHasANextState : Prop :=
  ∀ (s : State) (p : Signals) (rest : List Input), s.inputs = .ports p :: rest → s.idx.toNat ≤ 6 →
    s.handlerReturns → ∃ t, step s = .next t

/-! ### Control operations -/

/-- R82: RESET sets `idx` to 0, empties `buf`, clears `halted`; no message, no `close_req`, no `rd_release`, no byte
consumed. `typ` is unspecified, so some value stands there; `free` and the host's flag `connected` are the model's own
(log entries 2, 4, 14) and nothing is claimed of them. (The port `dec`
is the model's own, log entry 15.) -/
def Obligations.ResetEffect : Prop :=
  (∀ s : State, ∃ (v : Byte) (n : Nat) (k : Bool),
    exec .reset s = .next { s with
      idx := 0#3, buf := [], halted := false, typ := v, free := n, host := { s.host with connected := k } })
  ∧ (∀ (s : State) (p : Signals) (rest : List Input), s.inputs = .ports p :: rest → p.rst = true →
      ∃ (v : Byte) (n : Nat) (k : Bool), step s = .next { s with
        idx := 0#3, buf := [], halted := false, typ := v, free := n, host := { s.host with connected := k }
        inputs := rest, out := { inReady := false, dec := none, msg := none, closeReq := false, rdRelease := false } })

/-- R83: HALTED.HOLD changes nothing; in a halted state every step without reset only takes its input: no byte is
consumed, nothing is emitted, nothing pulses, `in_ready` is 0. (The port `dec`
is the model's own, log entry 15.) -/
def Obligations.HaltedHoldEffect : Prop :=
  (∀ s : State, exec .haltedHold s = .next s)
  ∧ (∀ (s : State) (p : Signals) (rest : List Input), s.inputs = .ports p :: rest → s.halted = true → p.rst = false →
      step s = .next { s with
        inputs := rest, out := { inReady := false, dec := none, msg := none, closeReq := false, rdRelease := false } })

/-- R84: ERR sets `halted` and pulses `rd_release`; no `close_req`, nothing emitted, the rest unchanged, and it wins
over an end-of-stream or a byte presented in the same step, which stays with the Transport. (The port `dec` and
the host's flag `connected`, of which nothing is claimed, are the model's own, log entries 14, 15.) -/
def Obligations.ErrEffect : Prop :=
  (∀ s : State, exec .err s = .next { s with
    halted := true
    out := { s.out with rdRelease := true }
    seen := { s.seen with rdReleases := s.seen.rdReleases + 1 } })
  ∧ (∀ (s : State) (p : Signals) (rest : List Input), s.inputs = .ports p :: rest → s.halted = false →
      p.rst = false → p.err = true →
      ∃ k : Bool, step s = .next { s with
        halted := true, inputs := rest, host := { s.host with connected := k }
        out := { inReady := false, dec := none, msg := none, closeReq := false, rdRelease := true }
        seen := { s.seen with rdReleases := s.seen.rdReleases + 1 } })

/-- R85: EOS sets `halted` and pulses `rd_release` and `close_req`; nothing is emitted, a partial frame stays where it
is; in the halted state no step pulses either again. (The port `dec` and
the host's flag `connected`, of which nothing is claimed, are the model's own, log entries 14, 15.) -/
def Obligations.EosEffect : Prop :=
  (∀ s : State, exec .eos s = .next { s with
    halted := true
    out := { s.out with rdRelease := true, closeReq := true }
    seen := { s.seen with rdReleases := s.seen.rdReleases + 1, closeReqs := s.seen.closeReqs + 1 } })
  ∧ (∀ (s : State) (p : Signals) (rest : List Input), s.inputs = .ports p :: rest → s.halted = false →
      p.rst = false → p.err = false → p.eos = true →
      ∃ k : Bool, step s = .next { s with
        halted := true, inputs := rest, host := { s.host with connected := k }
        out := { inReady := false, dec := none, msg := none, closeReq := true, rdRelease := true }
        seen := { s.seen with rdReleases := s.seen.rdReleases + 1, closeReqs := s.seen.closeReqs + 1 } })
  ∧ (∀ s t : State, s.halted = true → step s = .next t →
      t.out.closeReq = false ∧ t.out.rdRelease = false ∧ t.seen.closeReqs = s.seen.closeReqs
      ∧ t.seen.rdReleases = s.seen.rdReleases)

/-- R86: IDLE changes nothing; a step with no event, in any state that is not halted, only takes its input. (The port `dec`
is the model's own, log entry 15.) -/
def Obligations.IdleEffect : Prop :=
  (∀ s : State, exec .idle s = .next s)
  ∧ (∀ (s : State) (p : Signals) (rest : List Input), s.inputs = .ports p :: rest → s.halted = false →
      p.rst = false → p.err = false → p.eos = false → offered p s = none →
      step s = .next { s with
        inputs := rest, out := { inReady := true, dec := none, msg := none, closeReq := false, rdRelease := false } })

/-- R51 (a), (b), (d): `idx == 7` is given no meaning and refused, whatever byte is accepted; no byte is reserved at
`idx` 0..6. The refusal's name is the model's. -/
def Obligations.ReservedIndexRefused : Prop :=
  (∀ (b : Byte) (s : State), exec (.reservedIdx7 b) s = .refused .reservedIdx7)
  ∧ (∀ (s : State) (p : Signals) (rest : List Input) (b : Byte), s.inputs = .ports p :: rest → s.idx = 7#3 →
      offered p s = some b → p.rst = false → s.halted = false → p.err = false → p.eos = false →
      step s = .refused .reservedIdx7)
  ∧ (∀ (n : BitVec 3) (b c : Byte), n.toNat ≤ 6 → decodeByteOp n b ≠ .reservedIdx7 c)

/-! ### The framer's byte operations -/

/-- R54: SYNC.HIT, selected by `0xFE` at `idx == 0` (`W = 0x08FE`), sets `idx` to 1; the marker is consumed and stored nowhere. -/
def Obligations.SyncHitEffect : Prop :=
  decodeStep 0x08FE#16 = .syncHit
  ∧ ∀ s : State, exec .syncHit s = .next { s with idx := 1#3, stream := s.stream.tail }

/-- R55: SYNC.SKIP, selected by every byte but `0xFE` at `idx == 0`, consumes the byte and changes nothing else. -/
def Obligations.SyncSkipEffect : Prop :=
  (∀ b : Byte, b ≠ 0xFE#8 → decodeStep (0x0800#16 ||| b.setWidth 16) = .syncSkip b)
  ∧ ∀ (b : Byte) (s : State), exec (.syncSkip b) s = .next { s with stream := s.stream.tail }

/-- R56: TYPE, selected by every byte at `idx == 1`, stores it as the type and sets `idx` to 2. -/
def Obligations.TypeByteEffect : Prop :=
  (∀ b : Byte, decodeStep (0x0900#16 ||| b.setWidth 16) = .typeByte b)
  ∧ ∀ (b : Byte) (s : State), exec (.typeByte b) s = .next { s with typ := b, idx := 2#3, stream := s.stream.tail }

/-- R57 to R60: PAY0..PAY3, selected by every byte at `idx` 2..5, store the byte at buffer address 0..3, make the fill
length one more than the address, and advance `idx`. Memory reads: at the address stored to, the byte; below it, as
before; above it, nothing (the fill length ends there). -/
def Obligations.PayloadByteEffect : Prop :=
  (∀ b : Byte, decodeStep (0x0A00#16 ||| b.setWidth 16) = .pay0 b ∧ decodeStep (0x0B00#16 ||| b.setWidth 16) = .pay1 b
      ∧ decodeStep (0x0C00#16 ||| b.setWidth 16) = .pay2 b ∧ decodeStep (0x0D00#16 ||| b.setWidth 16) = .pay3 b)
  ∧ (∀ (b : Byte) (s : State),
      exec (.pay0 b) s = .next { s with buf := Memory.store s.buf 0 b, idx := 3#3, stream := s.stream.tail }
      ∧ exec (.pay1 b) s = .next { s with buf := Memory.store s.buf 1 b, idx := 4#3, stream := s.stream.tail }
      ∧ exec (.pay2 b) s = .next { s with buf := Memory.store s.buf 2 b, idx := 5#3, stream := s.stream.tail }
      ∧ exec (.pay3 b) s = .next { s with buf := Memory.store s.buf 3 b, idx := 6#3, stream := s.stream.tail })
  ∧ (∀ (m : Memory) (k : Fin 4) (b : Byte) (a : Nat),
      Memory.load (Memory.store m k b) a =
        (if a < k.val then Memory.load m a else if a = k.val then some b else none))
  ∧ (∀ (m : Memory) (k : Fin 4) (b : Byte), Memory.fill (Memory.store m k b) = k.val + 1)

/-- R61: END.HIT, selected by `0xFF` at `idx == 6`, emits one message with the type byte and the decoded
value, calls the registered handler once with the value (none when none is registered), and re-arms: `idx` 0, `buf`
empty, so no address of `buf` reads a byte. The value is the four payload bytes, first most significant, for types 0
and 1, and 0 for every other type. `typ` is unspecified afterwards. What the handler's own run leaves of the host's
side is not this rule's: with a handler registered, nothing is said here of `reg`, `runs` and `fr` (HandlerRunEffect). (The port `dec`
is the model's own, log entry 15.) -/
def Obligations.EndHitEffect : Prop :=
  decodeStep 0x0EFF#16 = .endHit
  ∧ ∀ s : State, s.handlerReturns →
    ∃ (val : Value) (v : Byte) (n : Nat) (reg : Registry) (runs : List HandlerRun) (cs : List Call)
      (fr : List (List Byte)),
      exec .endHit s = .next { s with
        idx := 0#3, buf := [], typ := v, free := n, stream := s.stream.tail
        out := { s.out with dec := some ⟨s.typ, val⟩, msg := some ⟨s.typ, val⟩ }
        host := { s.host with registry := reg, handlerRuns := runs }
        seen := { s.seen with
          trace := s.seen.trace ++ [⟨s.typ, val⟩], calls := s.seen.calls ++ cs, sent := s.seen.sent ++ fr } }
      ∧ (¬ (s.typ = 0#8 ∨ s.typ = 1#8) → val = 0#32)
      ∧ ((s.typ = 0#8 ∨ s.typ = 1#8) → ∀ b0 b1 b2 b3 : Byte, Memory.load s.buf 0 = some b0 →
          Memory.load s.buf 1 = some b1 → Memory.load s.buf 2 = some b2 → Memory.load s.buf 3 = some b3 →
          val = b0 ++ b1 ++ b2 ++ b3)
      ∧ (Registry.find s.host.registry (s.typ.toNat : Int) = none →
          reg = s.host.registry ∧ runs = s.host.handlerRuns ∧ cs = [] ∧ fr = [])
      ∧ (∀ h, Registry.find s.host.registry (s.typ.toNat : Int) = some h →
          cs = [⟨h, readValue s.host.reading val⟩])

/-- R62: END.ABSORB, selected by every byte but `0xFF` at `idx == 6`, consumes the byte and changes nothing else: the
pending frame is neither discarded nor emitted. -/
def Obligations.EndAbsorbEffect : Prop :=
  (∀ b : Byte, b ≠ 0xFF#8 → decodeStep (0x0E00#16 ||| b.setWidth 16) = .endAbsorb b)
  ∧ ∀ (b : Byte) (s : State), exec (.endAbsorb b) s = .next { s with stream := s.stream.tail }

/-- R53: the framer's table. In every state with `idx` in 0..6 that is not halted, every accepted byte has a next
state; its `idx`, its type byte, its buffer bytes, the messages emitted and the handlers called are those of the cell.
In the END.HIT cell, "decode, dispatch, reset to state 0 with empty buffer", the message is the type byte with the
decoded value, the handler registered for the type is called once with the value, and none when none is registered; that
cell alone has the premise that a called handler keeps its obligations (R78). -/
def Obligations.FramerTable : Prop :=
  ∀ (s : State) (rest : List Input) (b : Byte), s.inputs = .ports Signals.byteOffer :: rest →
    s.stream.head? = some b → s.halted = false → s.idx.toNat ≤ 6 →
    (s.idx = 6#3 → b = 0xFF#8 → s.handlerReturns) →
    ∃ t, step s = .next t ∧ t.halted = false ∧ t.inputs = rest ∧ t.stream = s.stream.tail
      ∧ (¬ (s.idx = 6#3 ∧ b = 0xFF#8) → t.seen.trace = s.seen.trace ∧ t.seen.calls = s.seen.calls)
      ∧ (s.idx = 0#3 → t.idx = (if b = 0xFE#8 then 1#3 else 0#3) ∧ t.typ = s.typ ∧ t.buf = s.buf)
      ∧ (s.idx = 1#3 → t.idx = 2#3 ∧ t.typ = b ∧ t.buf = s.buf)
      ∧ (∀ k : Fin 4, s.idx.toNat = k.val + 2 → t.idx.toNat = k.val + 3 ∧ t.typ = s.typ
          ∧ Memory.load t.buf k.val = some b ∧ Memory.fill t.buf = k.val + 1
          ∧ (∀ a, a < k.val → Memory.load t.buf a = Memory.load s.buf a))
      ∧ (s.idx = 6#3 → b = 0xFF#8 → t.idx = 0#3 ∧ t.buf = []
          ∧ t.seen.trace = s.seen.trace ++ [decodedMsg s.typ s]
          ∧ (decodedMsg s.typ s).type = s.typ
          ∧ (∀ b0 b1 b2 b3 : Byte, Memory.load s.buf 0 = some b0 → Memory.load s.buf 1 = some b1 →
              Memory.load s.buf 2 = some b2 → Memory.load s.buf 3 = some b3 →
              (decodedMsg s.typ s).value = if s.typ = 0#8 ∨ s.typ = 1#8 then b0 ++ b1 ++ b2 ++ b3 else 0#32)
          ∧ t.seen.calls = s.seen.calls ++
              (match Registry.find s.host.registry (s.typ.toNat : Int) with
                | some h => [⟨h, readValue s.host.reading (decodedMsg s.typ s).value⟩]
                | none => []))
      ∧ (s.idx = 6#3 → b ≠ 0xFF#8 → t.idx = 6#3 ∧ t.typ = s.typ ∧ t.buf = s.buf)

/-- R70: the message port carries one message per END.HIT step and nothing at any other time; the message is `typ`
with `Decode(typ, buf[0..3])`, and the trace is what the port carried. -/
def Obligations.MessageOnlyAtEndHit : Prop :=
  ∀ (s t : State), step s = .next t →
    ((∃ (p : Signals) (rest : List Input), s.inputs = .ports p :: rest ∧ decodeStep (stepWord p s) = .endHit
        ∧ t.out.msg = some (decodedMsg s.typ s) ∧ t.seen.trace = s.seen.trace ++ [decodedMsg s.typ s])
      ∨ (t.out.msg = none ∧ t.seen.trace = s.seen.trace
        ∧ ∀ (p : Signals) (rest : List Input), s.inputs = .ports p :: rest → decodeStep (stepWord p s) ≠ .endHit))

/-- R63, over any run: seven times the messages emitted is at most the bytes consumed plus what `idx` had already
counted, and the messages emitted are at most the `FF` bytes consumed. So a stream of n bytes gives at most n/7
messages and at most as many as it has `FF` bytes. -/
def Obligations.EmissionsAreBounded : Prop :=
  ∀ (n : Nat) (s t : State), Host.Core.run Sys2Proof.core n s = .next t →
    7 * t.seen.trace.length + t.idx.toNat + t.stream.length
        ≤ 7 * s.seen.trace.length + s.idx.toNat + s.stream.length
    ∧ t.seen.trace.length + t.stream.count 0xFF#8 ≤ s.seen.trace.length + s.stream.count 0xFF#8

/-- R46: fed to the parser at `idx == 0`, exactly the sequences of the language produce exactly one emission, on their
last byte, and leave `idx == 0`; the message is the frame's type with its decoded value. (Every handler keeps its
obligations, R78's premise.) -/
def Obligations.FramesAreTheLanguage : Prop :=
  ∀ (s : State) (bs : List Byte) (m : Msg), s.idx = 0#3 → s.halted = false → s.inputs = [] → s.stream = [] →
    (∀ r ∈ s.host.handlerRuns, r.ending = .returns ∧ r.acts.all HostCall.allowed = true) →
    (FrameSequence bs m ↔
      ∃ t u : State, Host.Core.run Sys2Proof.core bs.length (deliver bs s) = .next t
        ∧ Host.Core.run Sys2Proof.core (bs.length - 1) (deliver bs s) = .next u
        ∧ t.idx = 0#3 ∧ t.seen.trace = s.seen.trace ++ [m] ∧ u.seen.trace = s.seen.trace)

/-- R28: the behaviour on a stream is the same for every way of cutting it into chunks, empty chunks included. -/
def Obligations.ChunkBoundariesAreInvisible : Prop :=
  ∀ (chunks : List (List Byte)) (s : State), s.inputs = [] →
    runChunks chunks s = Host.Core.run Sys2Proof.core chunks.flatten.length (deliver chunks.flatten s)

/-! ### The decoder and the value -/

/-- R47: `be32` is the concatenation of the four bytes, first most significant, and the sum of the shifted bytes; bit
31 is `b0[7]`. It is applied for types 0 and 1 only; for any other type the value is 0. -/
def Obligations.ValueIsBigEndian : Prop :=
  (∀ b0 b1 b2 b3 : Byte, be32 b0 b1 b2 b3 = b0 ++ b1 ++ b2 ++ b3
      ∧ (be32 b0 b1 b2 b3).toNat = b0.toNat * 2 ^ 24 + b1.toNat * 2 ^ 16 + b2.toNat * 2 ^ 8 + b3.toNat
      ∧ (be32 b0 b1 b2 b3).getLsbD 31 = b0.getLsbD 7)
  ∧ (∀ t b0 b1 b2 b3 : Byte, decodeValue t b0 b1 b2 b3 =
      if t = 0#8 ∨ t = 1#8 then be32 b0 b1 b2 b3 else 0#32)

/-- R66, R67: DEC.BE32 gives the four payload bytes, first most significant, and DEC.ZERO gives 0, each with the full
type byte; nothing of the state changes but the decoder's output in this step. -/
def Obligations.DecoderEffect : Prop :=
  (∀ (t : Byte) (s : State), ∃ v : Value,
      exec (.decBe32 t) s = .next { s with out := { s.out with dec := some ⟨t, v⟩ } }
      ∧ ∀ b0 b1 b2 b3 : Byte, Memory.load s.buf 0 = some b0 → Memory.load s.buf 1 = some b1 →
          Memory.load s.buf 2 = some b2 → Memory.load s.buf 3 = some b3 → v = b0 ++ b1 ++ b2 ++ b3)
  ∧ (∀ (t : Byte) (s : State), exec (.decZero t) s = .next { s with out := { s.out with dec := some ⟨t, 0#32⟩ } })

/-- R66 corner case: on the known types the map from the four payload bytes to the pattern is a bijection. -/
def Obligations.PayloadMapIsBijective : Prop :=
  ∀ t : Byte, (t = 0#8 ∨ t = 1#8) →
    ∀ v : Value, ∃ q : Byte × Byte × Byte × Byte,
      decodeValue t q.1 q.2.1 q.2.2.1 q.2.2.2 = v
      ∧ ∀ r : Byte × Byte × Byte × Byte, decodeValue t r.1 r.2.1 r.2.2.1 r.2.2.2 = v → r = q

/-- R65, R50: the message END.HIT emits is the one that the decode operation selected by `typ` gives. -/
def Obligations.EndHitEmitsTheSelectedDecode : Prop :=
  ∀ (s t u : State), exec .endHit s = .next t → exec (decodeType8 s.typ) s = .next u →
    t.out.msg = u.out.dec ∧ t.seen.trace = s.seen.trace ++ u.out.dec.toList

/-- R68: the signed reading is the unsigned one, less 2^32 when bit 31 is set; the readings agree exactly when bit 31
is 0, so on every payload whose first byte is below 0x80; the default reading is signed. -/
def Obligations.ValueReadings : Prop :=
  (∀ v : Value, readValue .unsigned v = (v.toNat : Int) ∧ 0 ≤ readValue .unsigned v
      ∧ readValue .unsigned v ≤ 4294967295
      ∧ readValue .signed v = (if v.getLsbD 31 = true then (v.toNat : Int) - 2 ^ 32 else (v.toNat : Int))
      ∧ -2147483648 ≤ readValue .signed v ∧ readValue .signed v ≤ 2147483647
      ∧ (readValue .signed v = readValue .unsigned v ↔ v.getLsbD 31 = false))
  ∧ (∀ b0 b1 b2 b3 : Byte, b0.toNat < 0x80 →
      readValue .signed (b0 ++ b1 ++ b2 ++ b3) = readValue .unsigned (b0 ++ b1 ++ b2 ++ b3))
  ∧ State.reset.host.reading = .signed

/-! ### The host's side -/

/-- R73: REGISTER makes the handler the one registered for its key, whatever was there, and leaves every other key and
everything else as it was. -/
def Obligations.LastRegistrationWins : Prop :=
  ∀ (s : State) (rest : List Input) (key : Int) (handler : Nat),
    s.inputs = .call (.register key handler) :: rest →
    ∃ (reg : Registry) (ports : Outputs),
      step s = .next { s with inputs := rest, out := ports, host := { s.host with registry := reg } }
      ∧ Registry.find reg key = some handler
      ∧ ∀ other, other ≠ key → Registry.find reg other = Registry.find s.host.registry other

/-- R74, R75: a dispatch calls the handler that is registered for the type at the moment of the emission, exactly once,
with the integer reading of the value, and calls nothing when none is registered. -/
def Obligations.DispatchCallsTheRegisteredHandler : Prop :=
  ∀ (s t : State), exec .endHit s = .next t →
    t.seen.calls = s.seen.calls ++
      (match Registry.find s.host.registry (s.typ.toNat : Int) with
        | some h => [⟨h, readValue s.host.reading (decodedMsg s.typ s).value⟩]
        | none => [])

/-- R75, R76 with the form of a handler's run that is the model's (log entry 10): a handler that keeps its obligations
leaves the registry with its registrations made in order, its run used up and the rest of the host's side as it was,
and its commands' frames written in order; with no run listed it leaves all of that as it was. -/
def Obligations.HandlerRunEffect : Prop :=
  ∀ (s : State) (h : Nat), s.handlerReturns → Registry.find s.host.registry (s.typ.toNat : Int) = some h →
    ∃ t, exec .endHit s = .next t ∧ t.seen.opens = s.seen.opens
      ∧ (s.host.handlerRuns = [] → t.host = s.host ∧ t.seen.sent = s.seen.sent)
      ∧ (∀ r rs, s.host.handlerRuns = r :: rs →
          t.host = { s.host with registry := actRegistry r.acts s.host.registry, handlerRuns := rs }
          ∧ t.seen.sent = s.seen.sent ++ r.acts.flatMap callFrames)

/-- R77: the parser's state, its ports, the stream and the messages after a step do not depend on the registry, on the
handlers or on what they did: two states that differ in the host's side only give next states that agree on them. -/
def Obligations.HandlersCannotTouchTheParser : Prop :=
  ∀ (s t u : State) (h : HostSide), step s = .next t → step { s with host := h } = .next u →
    t.idx = u.idx ∧ t.typ = u.typ ∧ t.buf = u.buf ∧ t.halted = u.halted ∧ t.stream = u.stream ∧ t.out = u.out
    ∧ t.seen.trace = u.seen.trace ∧ t.seen.closeReqs = u.seen.closeReqs ∧ t.seen.rdReleases = u.seen.rdReleases

/-- R78, R103, R118 with 93 U6, U8, U12: a handler that throws, closes the Transport or connects makes the END.HIT step
refused, and one that never returns makes it stuck. (The names of the stops are the model's, log entry 11, and so is the
refusal of a connect, log entry 28.) -/
def Obligations.HandlersThatDoNotReturn : Prop :=
  ∀ (s : State) (h : Nat) (r : HandlerRun) (rs : List HandlerRun),
    Registry.find s.host.registry (s.typ.toNat : Int) = some h → s.host.handlerRuns = r :: rs →
    (r.acts.all HostCall.allowed = true → r.ending = .throws → exec .endHit s = .refused .handlerThrows)
    ∧ (r.acts.all HostCall.allowed = true → r.ending = .neverReturns → exec .endHit s = .fault .handlerNeverReturns)
    ∧ (∀ xs ys, r.acts = xs ++ .closeTransport :: ys → xs.all HostCall.allowed = true →
        exec .endHit s = .refused .handlerClosesTransport)
    ∧ (∀ xs baud ys, r.acts = xs ++ .connect baud :: ys → xs.all HostCall.allowed = true →
        exec .endHit s = .refused .secondConnection)

/-- R38, R73, R88, and for `connect` and `closeTransport` R87, R85 (c): a host call between two steps, the outbound commands
among them, touches nothing of the parser: not its state, not the stream, not the messages, calls or pulses. That closing
the Transport leaves `halted` alone in its own step, the end-of-stream coming in the next, is the model's choice (log
entry 13; HostCloseIsEndOfStream says what comes), and so are the quiet ports of a host-call step (log entry 24). -/
def Obligations.HostCallsLeaveTheParser : Prop :=
  ∀ (s t : State) (c : HostCall) (rest : List Input), s.inputs = .call c :: rest → step s = .next t →
    t.idx = s.idx ∧ t.typ = s.typ ∧ t.buf = s.buf ∧ t.halted = s.halted ∧ t.stream = s.stream
    ∧ t.seen.trace = s.seen.trace ∧ t.seen.calls = s.seen.calls ∧ t.seen.closeReqs = s.seen.closeReqs
    ∧ t.seen.rdReleases = s.seen.rdReleases ∧ t.out.msg = none ∧ t.out.closeReq = false ∧ t.out.rdRelease = false

/-- The host calls to which the spec gives no meaning are refused by name: an unsynchronised registration (93 U7), a
command name outside the seven (93 U13), a connection with no reset since one began, or in a state that is not the reset
state (R87, 93 U12; the flag is the model's, log entry 14). -/
def Obligations.MeaninglessHostCallsAreRefused : Prop :=
  (∀ (s : State) (rest : List Input) (k : Int) (h : Nat), s.inputs = .call (.registerUnsync k h) :: rest →
      step s = .refused .unsynchronisedRegistration)
  ∧ (∀ (s : State) (rest : List Input), s.inputs = .call (.sendCommand .other) :: rest →
      step s = .refused .unknownCommandName)
  ∧ (∀ (s : State) (rest : List Input) (baud : Nat), s.inputs = .call (.connect baud) :: rest →
      s.host.connected = true ∨ s.idx ≠ 0#3 ∨ s.buf ≠ [] ∨ s.halted = true → step s = .refused .secondConnection)

/-- R87 with 92 D15: a connect before the connection of the run, in the reset state, opens the Transport at the rate and
starts the parser from there: nothing of the parser changes. Every event of a connection, a byte accepted, an
end-of-stream or a read error taken, and every connect, marks the connection as begun, which only RESET undoes. (The mark
is the model's, log entry 14, and the ports in a step of a host call, log entry 24.) -/
def Obligations.ConnectStartsFromReset : Prop :=
  (∀ (s : State) (rest : List Input) (baud : Nat), s.inputs = .call (.connect baud) :: rest →
      s.host.connected = false → s.idx = 0#3 → s.buf = [] → s.halted = false →
      ∃ ports : Outputs, step s = .next { s with
        inputs := rest, out := ports, host := { s.host with connected := true }
        seen := { s.seen with opens := s.seen.opens ++ [baud] } })
  ∧ (∀ (s t : State) (p : Signals) (rest : List Input), s.inputs = .ports p :: rest → step s = .next t →
      p.rst = false → s.halted = false → (p.err = true ∨ p.eos = true ∨ (offered p s).isSome = true) →
      t.host.connected = true)
  ∧ (∀ s t : State, step s = .next t → s.host.connected = true → t.host.connected = false → s.resetsNext)

/-! ### The outbound encoder -/

/-- R89: ENC.SIMPLE writes exactly `FE code 00 FF`, for any code, and changes nothing else. -/
def Obligations.SimpleFrameBytes : Prop :=
  ∀ (code : Byte) (s : State),
    exec (.encSimple code) s = .next { s with
      seen := { s.seen with sent := s.seen.sent ++ [[0xFE#8, code, 0x00#8, 0xFF#8]] } }

/-- R90: the seven names stand for the codes 0 to 6: `sendCommand(name)` is ENC.SIMPLE on the code, so it writes that
frame and changes nothing else (the ports in that step are the model's, log entry 24). -/
def Obligations.CommandNamesAreSimpleFrames : Prop :=
  ∀ (s : State) (rest : List Input) (name : CommandName) (code : Byte),
    (name, code) ∈ [(CommandName.stop, 0#8), (.right, 1#8), (.left, 2#8), (.shutter, 3#8), (.start, 4#8),
      (.pause, 5#8), (.reset, 6#8)] →
    s.inputs = .call (.sendCommand name) :: rest →
    ∃ ports : Outputs,
      step s = exec (.encSimple code) { s with inputs := rest, out := ports }
      ∧ step s = .next { s with
          inputs := rest, out := ports
          seen := { s.seen with sent := s.seen.sent ++ [[0xFE#8, code, 0x00#8, 0xFF#8]] } }

/-- R91: ENC.PROGRAM writes exactly the 13 bytes, each 32-bit field most significant byte first, and changes nothing
else; the count is taken modulo 256 (a bitwise AND with 0xFF). -/
def Obligations.ProgramFrameBytes : Prop :=
  (∀ (a d : Value) (n : Byte) (s : State),
      exec (.encProgram a d n) s = .next { s with
        seen := { s.seen with sent := s.seen.sent ++ [[0xFE#8, 0x04#8, 0x09#8,
          a.extractLsb' 24 8, a.extractLsb' 16 8, a.extractLsb' 8 8, a.extractLsb' 0 8,
          d.extractLsb' 24 8, d.extractLsb' 16 8, d.extractLsb' 8 8, d.extractLsb' 0 8, n, 0xFF#8]] } })
  ∧ (∀ count : Int, ((countByte count).toNat : Int) = count % 256)
  ∧ (∀ count : Nat, countByte (count : Int) = (BitVec.ofNat 8 (count &&& 0xFF)))

/-- R92: where the exact product with 1000 truncates toward zero to an integer in 0..2147483647 that the host's own
rounded product gives too, and the count is a number, `sendProgram` is ENC.PROGRAM on those integers and one count byte,
which is an integer count's low byte (R91); of a count that is a number but no integer nothing is claimed but that the
frame is sent with some byte. Anything else is refused. How the request carries the two products is the model's (log entry
17), and so are the ports of a host-call step (log entry 24) and that a count that is no integer is sent (log entry 31). -/
def Obligations.ProgramScaling : Prop :=
  ∀ (s : State) (rest : List Input) (x y : HostNumber) (count : Ratio),
    s.inputs = .call (.sendProgram x y count) :: rest →
    (∀ a d : Int, x.value.den ≠ 0 → x.product.den ≠ 0 → y.value.den ≠ 0 → y.product.den ≠ 0 →
        (x.value.num * 1000).tdiv x.value.den = a → x.product.num.tdiv x.product.den = a → 0 ≤ a → a ≤ 2147483647 →
        (y.value.num * 1000).tdiv y.value.den = d → y.product.num.tdiv y.product.den = d → 0 ≤ d → d ≤ 2147483647 →
        count.den ≠ 0 →
        ∃ c : Byte, (∀ n : Int, count.num = n * count.den → c = countByte n)
          ∧ step s = exec (.encProgram (BitVec.ofInt 32 a) (BitVec.ofInt 32 d) c)
              { s with inputs := rest, out := { Outputs.quiet with inReady := !s.halted } }
          ∧ step s = .next { s with
              inputs := rest, out := { Outputs.quiet with inReady := !s.halted }
              seen := { s.seen with
                sent := s.seen.sent ++ [programFrame (BitVec.ofInt 32 a) (BitVec.ofInt 32 d) c] } })
    ∧ ((x.value.den = 0 ∨ x.product.den = 0 ∨ y.value.den = 0 ∨ y.product.den = 0 ∨ count.den = 0
        ∨ (x.value.num * 1000).tdiv x.value.den ≠ x.product.num.tdiv x.product.den
        ∨ (y.value.num * 1000).tdiv y.value.den ≠ y.product.num.tdiv y.product.den
        ∨ (x.value.num * 1000).tdiv x.value.den < 0 ∨ 2147483647 < (x.value.num * 1000).tdiv x.value.den
        ∨ (y.value.num * 1000).tdiv y.value.den < 0 ∨ 2147483647 < (y.value.num * 1000).tdiv y.value.den) →
        step s = .refused .programOutsideDomain)

/-! ### Whole-machine rules -/

/-- R25: after reset `idx` is 0, `buf` is empty, `halted` is 0, the message port is idle and no `close_req` or
`rd_release` is pending. (`typ` is unspecified: nothing is claimed.) -/
def Obligations.ResetState : Prop :=
  State.reset.idx = 0#3 ∧ State.reset.buf = [] ∧ Memory.fill State.reset.buf = 0 ∧ State.reset.halted = false
  ∧ State.reset.out.msg = none ∧ State.reset.out.closeReq = false ∧ State.reset.out.rdRelease = false

/-- The reset state meets the invariant. -/
def Obligations.ResetMeetsInvariant : Prop := State.reset.Inv

/-- R19, R26 (i), (ii): every step keeps the invariant: `idx` stays one of 0..6, the buffer holds exactly the bytes
that `idx` says, buffer and registry keep their canonical form, and before the connection of a run begins the parser is in
the reset state (R87; the mark is the model's, log entry 14). -/
def Obligations.StepKeepsInvariant : Prop :=
  ∀ (s t : State), s.Inv → step s = .next t → t.Inv

/-- R20, R26 (iv): `halted` is set by ERR and EOS only and cleared by RESET only; while it is 1 and there is no reset,
`idx`, `typ`, `buf` and the stream stay fixed and nothing is emitted, called or pulsed. -/
def Obligations.HaltedIsLeftByResetOnly : Prop :=
  ∀ (s t : State), step s = .next t →
    (s.halted = false → (t.halted = true ↔ ∃ p rest, s.inputs = .ports p :: rest ∧ p.rst = false
        ∧ (p.err = true ∨ p.eos = true)))
    ∧ (s.resetsNext → t.halted = false)
    ∧ (s.halted = true → t.halted = false → s.resetsNext)
    ∧ (s.halted = true → ¬ s.resetsNext → t.halted = true ∧ t.idx = s.idx ∧ t.typ = s.typ ∧ t.buf = s.buf
        ∧ t.stream = s.stream ∧ t.seen.trace = s.seen.trace ∧ t.seen.calls = s.seen.calls
        ∧ t.seen.closeReqs = s.seen.closeReqs ∧ t.seen.rdReleases = s.seen.rdReleases)

/-- R85 with 90 C8: over any run without a reset, the block requests at most one close and releases the read handle at
most once, and not at all if it is halted already. -/
def Obligations.CloseRequestedAtMostOnce : Prop :=
  ∀ (n : Nat) (s t : State), Host.Core.run Sys2Proof.core n s = .next t →
    (∀ p, Input.ports p ∈ s.inputs → p.rst = false) →
    t.seen.closeReqs ≤ s.seen.closeReqs + (if s.halted = true then 0 else 1)
    ∧ t.seen.rdReleases ≤ s.seen.rdReleases + (if s.halted = true then 0 else 1)

/-- R17, R64: `typ` is written by TYPE, with the input byte, and otherwise only becomes unspecified at END.HIT and
RESET; `buf` is written by PAY0..PAY3 and emptied by END.HIT and RESET, and by nothing else. -/
def Obligations.TypeAndBufferWriters : Prop :=
  ∀ (s t : State), step s = .next t →
    (t.typ = s.typ ∨ ∃ p rest, s.inputs = .ports p :: rest
        ∧ (decodeStep (stepWord p s) = .typeByte t.typ ∨ decodeStep (stepWord p s) = .endHit
          ∨ decodeStep (stepWord p s) = .reset))
    ∧ (t.buf = s.buf ∨ ∃ p rest, s.inputs = .ports p :: rest
        ∧ ((t.buf = [] ∧ (decodeStep (stepWord p s) = .endHit ∨ decodeStep (stepWord p s) = .reset))
          ∨ ∃ b, (decodeStep (stepWord p s) = .pay0 b ∧ t.buf = Memory.store s.buf 0 b)
            ∨ (decodeStep (stepWord p s) = .pay1 b ∧ t.buf = Memory.store s.buf 1 b)
            ∨ (decodeStep (stepWord p s) = .pay2 b ∧ t.buf = Memory.store s.buf 2 b)
            ∨ (decodeStep (stepWord p s) = .pay3 b ∧ t.buf = Memory.store s.buf 3 b)))

/-- R85 corner case (c): a close of the Transport by the host is seen by the block as an end-of-stream. It is presented in
the next step, before whatever else is presented, and that step performs EOS, or HALTED.HOLD in a halted state; nothing
else of the state changes, `idx`, `typ`, `buf` and the stream among it. (That it comes in the next step, after a step of
the host call alone, is the model's, log entry 13; the ports of the host-call step, log entry 24, and the host's flag
`connected`, log entry 14, are the model's too, and nothing is claimed of them.) -/
def Obligations.HostCloseIsEndOfStream : Prop :=
  ∀ (s : State) (rest : List Input), s.inputs = .call .closeTransport :: rest →
    ∃ (ports : Outputs) (t : State), step s = .next t
      ∧ t = { s with inputs := .ports Signals.endOfStream :: rest, out := ports }
      ∧ (s.halted = false → ∃ k : Bool, step t = .next { s with
          halted := true, inputs := rest, host := { s.host with connected := k }
          out := { inReady := false, dec := none, msg := none, closeReq := true, rdRelease := true }
          seen := { s.seen with rdReleases := s.seen.rdReleases + 1, closeReqs := s.seen.closeReqs + 1 } })
      ∧ (s.halted = true → step t = .next { s with
          inputs := rest
          out := { inReady := false, dec := none, msg := none, closeReq := false, rdRelease := false } })
end

