-- ==== Sys2Proof/Laws/Decode.lean ====
section
/-! SUPPORT. The constants of the frame tied to one another, and the operation of an accepted byte at each value of
`idx`. -/

namespace Sys2Proof

/-- The frame is the two markers, the type byte and the payload (R41); the offsets and widths of R7 and R8 agree. -/
theorem Config.frame_consistent :
    Config.frameLen = Config.payloadLen + 3 ∧ Config.idxMax + 1 = Config.frameLen ∧ Config.payloadIdx 0 = 2
    ∧ Config.payloadIdx Config.payloadLen = Config.idxMax ∧ Config.idxMax < 2 ^ Config.idxBits
    ∧ Config.valueBits = Config.payloadLen * Config.byteBits := by decide

/-- The value of `idx` that a frame offset is. -/
@[simp] theorem frameIdx_eq (n : Nat) : frameIdx n = BitVec.ofNat 3 n := rfl

@[simp] theorem decodeByteOp_zero (b : Byte) :
    decodeByteOp 0#3 b = if b = Config.startMarker then .syncHit else .syncSkip b := rfl
@[simp] theorem decodeByteOp_one (b : Byte) : decodeByteOp 1#3 b = .typeByte b := rfl
@[simp] theorem decodeByteOp_two (b : Byte) : decodeByteOp 2#3 b = .pay0 b := rfl
@[simp] theorem decodeByteOp_three (b : Byte) : decodeByteOp 3#3 b = .pay1 b := rfl
@[simp] theorem decodeByteOp_four (b : Byte) : decodeByteOp 4#3 b = .pay2 b := rfl
@[simp] theorem decodeByteOp_five (b : Byte) : decodeByteOp 5#3 b = .pay3 b := rfl
@[simp] theorem decodeByteOp_six (b : Byte) :
    decodeByteOp 6#3 b = if b = Config.endMarker then .endHit else .endAbsorb b := rfl
@[simp] theorem decodeByteOp_seven (b : Byte) : decodeByteOp 7#3 b = .reservedIdx7 b := rfl

end Sys2Proof
end

