-- ==== Sys2Proof/Laws/Host.lean ====
section
/-! SUPPORT. The registry's canonical form, and what host calls, a handler's run and a dispatch can do: one lemma each,
for the provers to cite instead of unfolding. -/

namespace Sys2Proof.Machine

/-! ### The registry -/

/-- Every key of an updated registry is the new key or an old one. -/
theorem Registry.mem_set {r : Registry} {key : Int} {handler : Nat} {e : Int × Nat} (h : e ∈ Registry.set r key handler) :
    e.1 = key ∨ e ∈ r := by
  induction r with
  | nil => simp [Registry.set] at h; simp [h]
  | cons c r ih =>
    obtain ⟨k, g⟩ := c
    simp only [Registry.set] at h
    split at h
    · rcases List.mem_cons.1 h with h | h
      · left; simp [h]
      · right; exact h
    · split at h
      · rcases List.mem_cons.1 h with h | h
        · left; simp [h]
        · right; exact List.mem_cons_of_mem _ h
      · rcases List.mem_cons.1 h with h | h
        · right; simp [h]
        · rcases ih h with h | h
          · left; exact h
          · right; exact List.mem_cons_of_mem _ h

/-- Registering keeps the canonical form. -/
theorem Registry.set_wf {r : Registry} (h : Registry.wf r) (key : Int) (handler : Nat) :
    Registry.wf (Registry.set r key handler) := by
  induction r with
  | nil => simp [Registry.set]
  | cons c r ih =>
    obtain ⟨k, g⟩ := c
    obtain ⟨hk, hr⟩ := List.pairwise_cons.1 h
    simp only [Registry.set]
    split
    · rename_i hlt
      refine List.pairwise_cons.2 ⟨fun e he => ?_, h⟩
      rcases List.mem_cons.1 he with he | he
      · rw [he]; exact hlt
      · exact lt_trans hlt (hk e he)
    · split
      · rename_i _ heq
        exact List.pairwise_cons.2 ⟨fun e he => by rw [heq]; exact hk e he, hr⟩
      · refine List.pairwise_cons.2 ⟨fun e he => ?_, ih hr⟩
        rcases Registry.mem_set he with he | he
        · rw [he]; show k < key; omega
        · exact hk e he

/-! ### Outcomes -/

/-- A chain answers next exactly when both links do. -/
theorem andThen_eq_next {o : Host.Outcome State Fault Refusal} {f : State → Host.Outcome State Fault Refusal} {t : State} :
    andThen o f = .next t ↔ ∃ s, o = .next s ∧ f s = .next t := by
  cases o <;> simp [andThen]

@[simp] theorem andThen_next (s : State) (f : State → Host.Outcome State Fault Refusal) :
    andThen (.next s) f = f s := rfl
@[simp] theorem andThen_fault (r : Fault) (f : State → Host.Outcome State Fault Refusal) :
    andThen (.fault r) f = .fault r := rfl
@[simp] theorem andThen_refused (r : Refusal) (f : State → Host.Outcome State Fault Refusal) :
    andThen (.refused r) f = .refused r := rfl

/-! ### Host calls, handler runs, dispatch -/

/-- `t` is `s` but for the host's registry (its canonical form kept), runs and connection flag (never cleared), the frames
sent and the rates opened: what calls of the host can change. -/
def HostOnly (s t : State) : Prop :=
  ∃ (reg : Registry) (runs : List HandlerRun) (k : Bool) (sent : List (List Byte)) (opens : List Nat),
    t = { s with
      host := { s.host with registry := reg, handlerRuns := runs, connected := k }
      seen := { s.seen with sent := sent, opens := opens } }
    ∧ (Registry.wf s.host.registry → Registry.wf reg) ∧ (s.host.connected = true → k = true)

theorem HostOnly.refl (s : State) : HostOnly s s := ⟨_, _, _, _, _, rfl, id, id⟩

theorem HostOnly.trans {s t u : State} (h : HostOnly s t) (g : HostOnly t u) : HostOnly s u := by
  obtain ⟨_, _, _, _, _, rfl, hw, hk⟩ := h
  obtain ⟨_, _, _, _, _, rfl, gw, gk⟩ := g
  exact ⟨_, _, _, _, _, rfl, fun h => gw (hw h), fun h => gk (hk h)⟩

/-- A connect goes on exactly before the connection of the run, from the reset state, and records the rate. -/
theorem connect_eq_next {baud : Nat} {s t : State} :
    connect baud s = .next t ↔ s.host.connected = false ∧ atReset s = true ∧ t = { s with
      host := { s.host with connected := true }, seen := { s.seen with opens := s.seen.opens ++ [baud] } } := by
  unfold connect
  cases s.host.connected <;> cases atReset s <;> simp [eq_comm]

/-- A host call that goes on changes the host's side only; closing the Transport also presents an end-of-stream. -/
theorem hostCall_next {c : HostCall} {s t : State} (h : hostCall c s = .next t) :
    HostOnly s t ∨ c = .closeTransport ∧ t = { s with inputs := .ports Signals.endOfStream :: s.inputs } := by
  cases c with
  | register key handler => cases h; exact .inl ⟨_, _, _, _, _, rfl, fun hw => Registry.set_wf hw key handler, id⟩
  | registerUnsync key handler => cases h
  | sendSimple code => cases h; exact .inl ⟨_, _, _, _, _, rfl, id, id⟩
  | sendCommand name =>
    cases name <;> cases h <;> exact .inl ⟨_, _, _, _, _, rfl, id, id⟩
  | sendProgramInt step delay count => cases h; exact .inl ⟨_, _, _, _, _, rfl, id, id⟩
  | sendProgram step delay count =>
    simp only [hostCall, sendScaled] at h
    split at h
    · cases h; exact .inl ⟨_, _, _, _, _, rfl, id, id⟩
    · cases h
  | connect baud =>
    obtain ⟨_, _, rfl⟩ := connect_eq_next.1 h
    exact .inl ⟨_, _, _, _, _, rfl, id, fun _ => rfl⟩
  | closeTransport => cases h; exact .inr ⟨rfl, rfl⟩

/-- A handler's call that goes on is the same call made between steps, and neither closes the Transport nor connects. -/
theorem handlerCall_eq {c : HostCall} {s t : State} (h : handlerCall c s = .next t) :
    hostCall c s = .next t ∧ c ≠ .closeTransport ∧ ∀ baud, c ≠ .connect baud := by
  cases c <;> first | exact ⟨h, by simp, by simp⟩ | cases h

/-- A handler's call that goes on changes the host's side only. -/
theorem handlerCall_next {c : HostCall} {s t : State} (h : handlerCall c s = .next t) : HostOnly s t :=
  (hostCall_next (handlerCall_eq h).1).resolve_right (fun g => (handlerCall_eq h).2.1 g.1)

theorem handlerCalls_next {cs : List HostCall} {s t : State} (h : handlerCalls cs s = .next t) : HostOnly s t := by
  induction cs generalizing s with
  | nil => cases h; exact .refl _
  | cons c cs ih =>
    obtain ⟨u, hu, ht⟩ := andThen_eq_next.1 h
    exact (handlerCall_next hu).trans (ih ht)

/-- A handler's run that returns changes the host's side only. -/
theorem runHandler_next {s t : State} (h : runHandler s = .next t) : HostOnly s t := by
  unfold runHandler at h
  split at h
  · cases h; exact .refl _
  · rename_i r rs _
    obtain ⟨u, hu, ht⟩ := andThen_eq_next.1 h
    have hr : t = u := by
      cases he : r.ending <;> simp [finishHandler, he] at ht
      exact ht.symm
    subst hr
    exact .trans ⟨_, rs, _, _, _, rfl, id, id⟩ (handlerCalls_next hu)

/-- What a dispatch that goes on can do: nothing, or record one call of the registered handler and change the host's
side. -/
theorem dispatch_next {m : Msg} {s t : State} (h : dispatch m s = .next t) :
    (Registry.find s.host.registry (m.type.toNat : Int) = none ∧ t = s)
    ∨ ∃ handler, Registry.find s.host.registry (m.type.toNat : Int) = some handler
        ∧ HostOnly (recordCall handler m.value s) t := by
  unfold dispatch at h
  split at h
  · rename_i handler hf
    exact .inr ⟨handler, hf, runHandler_next h⟩
  · rename_i hf
    cases h
    exact .inl ⟨hf, rfl⟩

end Sys2Proof.Machine
end

