-- ==== Sys2Proof/Laws/Memory.lean ====
section
/-! SUPPORT. The laws of the payload buffer: what a store does to every address, and that every operation keeps the
canonical form. -/

namespace Sys2Proof.Machine

theorem Memory.load_append (m n : Memory) (a : Nat) :
    Memory.load (m ++ n) a = (Memory.load m a).or (Memory.load n a) := by
  induction m with
  | nil => simp [Memory.load]
  | cons c m ih =>
    obtain ⟨k, b⟩ := c
    simp only [List.cons_append, Memory.load]
    split <;> simp [ih]

/-- Below the bound a filtered buffer reads as before, from the bound on it reads nothing. -/
theorem Memory.load_filter_lt (m : Memory) (k a : Nat) :
    Memory.load (m.filter (fun c => decide (c.1 < k))) a = if a < k then Memory.load m a else none := by
  induction m with
  | nil => simp [Memory.load]
  | cons c m ih =>
    obtain ⟨j, b⟩ := c
    by_cases ha : j = a
    · subst ha
      by_cases hj : j < k
      · simp [hj, Memory.load]
      · simp [hj, ih]
    · by_cases hj : j < k
      · simp [hj, Memory.load, ha, ih]
      · simp [hj, Memory.load, ha, ih]

/-- A store seen from every address: the byte at its address, below it as before, above it nothing. -/
theorem Memory.load_store (m : Memory) (k : Fin Config.payloadLen) (b : Byte) (a : Nat) :
    Memory.load (Memory.store m k b) a = if a < k.val then Memory.load m a else if a = k.val then some b else none := by
  unfold Memory.store
  rw [Memory.load_append, Memory.load_filter_lt]
  by_cases ha : a < k.val
  · have : k.val ≠ a := by omega
    simp [ha, Memory.load, this]
  · by_cases he : a = k.val <;> simp [ha, he, Memory.load, eq_comm]

@[simp] theorem Memory.load_store_same (m : Memory) (k : Fin Config.payloadLen) (b : Byte) :
    Memory.load (Memory.store m k b) k.val = some b := by simp [Memory.load_store]

theorem Memory.load_store_below (m : Memory) (k : Fin Config.payloadLen) (b : Byte) {a : Nat} (h : a < k.val) :
    Memory.load (Memory.store m k b) a = Memory.load m a := by simp [Memory.load_store, h]

@[simp] theorem Memory.fill_store (m : Memory) (k : Fin Config.payloadLen) (b : Byte) : Memory.fill (Memory.store m k b) = k.val + 1 := by
  simp [Memory.fill, Memory.store]

theorem Memory.nil_wf : Memory.wf [] := ⟨List.Pairwise.nil, fun _ h => absurd h List.not_mem_nil⟩

/-- A store keeps the canonical form. -/
theorem Memory.store_wf {m : Memory} (h : Memory.wf m) (k : Fin Config.payloadLen) (b : Byte) : Memory.wf (Memory.store m k b) := by
  obtain ⟨hp, hb⟩ := h
  constructor
  · refine List.pairwise_append.2 ⟨hp.filter _, List.pairwise_singleton _ _, ?_⟩
    simp
  · intro c hc
    rcases List.mem_append.1 hc with hc | hc
    · exact hb c (List.mem_of_mem_filter hc)
    · rw [List.mem_singleton.1 hc]; exact k.isLt

/-- Where the listed addresses are 0..k-1, a store at k lists k as well. -/
theorem Memory.store_addresses {m : Memory} {k : Fin Config.payloadLen} (h : m.map (fun c => c.1) = List.range k.val) (b : Byte) :
    (Memory.store m k b).map (fun c => c.1) = List.range (k.val + 1) := by
  have hlt : ∀ c ∈ m, c.1 < k.val := fun c hc => by
    have : c.1 ∈ m.map (fun c => c.1) := List.mem_map_of_mem hc
    rw [h] at this
    exact List.mem_range.1 this
  have hf : m.filter (fun c => decide (c.1 < k.val)) = m := List.filter_eq_self.2 (fun c hc => by simp [hlt c hc])
  simp [Memory.store, hf, h, List.range_succ]

/-- The reset state's buffer is in canonical form. -/
theorem reset_buf_wf : Memory.wf State.reset.buf := Memory.nil_wf

theorem storeByte_wf {s : State} (h : Memory.wf s.buf) (k : Fin Config.payloadLen) (b : Byte) : Memory.wf (storeByte k b s).buf :=
  Memory.store_wf h k b

theorem rearm_wf (s : State) : Memory.wf (rearm s).buf := Memory.nil_wf

theorem resetBlock_wf (s : State) : Memory.wf (resetBlock s).buf := Memory.nil_wf

end Sys2Proof.Machine
end

