-- ==== Sys2Proof/Laws/PerInstr.lean ====
section
/-! SUPPORT. A statement for every operation as syntax: its word is in the format, of the width, that the opcode table
gives its row. -/

namespace Sys2Proof

/-- The width of an operation word in bits. -/
def OpWord.width : OpWord → Nat
  | .step _ => 16
  | .type8 _ => 8
  | .tx4 _ => 32
  | .tx13 _ => 104

/-- The width of an operation's row in spec/opcode_table.json. -/
def Op.tableWidth : Op → Nat
  | .decBe32 | .decZero => 8
  | .encSimple => 32
  | .encProgram => 104
  | .reset | .haltedHold | .err | .eos | .idle | .syncHit | .syncSkip | .typeByte | .pay0 | .pay1 | .pay2 | .pay3
  | .endHit | .endAbsorb | .reservedIdx7 => 16

namespace Laws.Format

/-- The encoder gives a word of the width of the operation's table row. -/
def Statement (i : Instr) : Prop := (encode i).width = i.op.tableWidth

theorem reset : Statement .reset := rfl
theorem haltedHold : Statement .haltedHold := rfl
theorem err : Statement .err := rfl
theorem eos : Statement .eos := rfl
theorem idle : Statement .idle := rfl
theorem syncHit : Statement .syncHit := rfl
theorem syncSkip (b : Byte) : Statement (.syncSkip b) := rfl
theorem typeByte (b : Byte) : Statement (.typeByte b) := rfl
theorem pay0 (b : Byte) : Statement (.pay0 b) := rfl
theorem pay1 (b : Byte) : Statement (.pay1 b) := rfl
theorem pay2 (b : Byte) : Statement (.pay2 b) := rfl
theorem pay3 (b : Byte) : Statement (.pay3 b) := rfl
theorem endHit : Statement .endHit := rfl
theorem endAbsorb (b : Byte) : Statement (.endAbsorb b) := rfl
theorem reservedIdx7 (b : Byte) : Statement (.reservedIdx7 b) := rfl
theorem decBe32 (t : Byte) : Statement (.decBe32 t) := rfl
theorem decZero (t : Byte) : Statement (.decZero t) := rfl
theorem encSimple (code : Byte) : Statement (.encSimple code) := rfl
theorem encProgram (step delay : Value) (count : Byte) : Statement (.encProgram step delay count) := rfl

end Laws.Format

end Sys2Proof
end

