-- ==== Sys2Proof/Laws/State.lean ====
section
/-! SUPPORT. One lemma per field per shared operation, so that no proof unfolds a record update. A field of a nested
record (`out`, `host`, `seen`) is given as the whole nested record after the operation. -/

namespace Sys2Proof.Machine

variable (s : State)

/-! ### `consume` -/

@[simp] theorem consume_idx : (consume s).idx = s.idx := rfl
@[simp] theorem consume_typ : (consume s).typ = s.typ := rfl
@[simp] theorem consume_buf : (consume s).buf = s.buf := rfl
@[simp] theorem consume_halted : (consume s).halted = s.halted := rfl
@[simp] theorem consume_inputs : (consume s).inputs = s.inputs := rfl
@[simp] theorem consume_stream : (consume s).stream = s.stream.tail := rfl
@[simp] theorem consume_out : (consume s).out = s.out := rfl
@[simp] theorem consume_host : (consume s).host = s.host := rfl
@[simp] theorem consume_seen : (consume s).seen = s.seen := rfl
@[simp] theorem consume_free : (consume s).free = s.free := rfl

/-! ### `setIdx` -/

@[simp] theorem setIdx_idx (n : Index) : (setIdx n s).idx = n := rfl
@[simp] theorem setIdx_typ (n : Index) : (setIdx n s).typ = s.typ := rfl
@[simp] theorem setIdx_buf (n : Index) : (setIdx n s).buf = s.buf := rfl
@[simp] theorem setIdx_halted (n : Index) : (setIdx n s).halted = s.halted := rfl
@[simp] theorem setIdx_inputs (n : Index) : (setIdx n s).inputs = s.inputs := rfl
@[simp] theorem setIdx_stream (n : Index) : (setIdx n s).stream = s.stream := rfl
@[simp] theorem setIdx_out (n : Index) : (setIdx n s).out = s.out := rfl
@[simp] theorem setIdx_host (n : Index) : (setIdx n s).host = s.host := rfl
@[simp] theorem setIdx_seen (n : Index) : (setIdx n s).seen = s.seen := rfl
@[simp] theorem setIdx_free (n : Index) : (setIdx n s).free = s.free := rfl

/-! ### `setTyp` -/

@[simp] theorem setTyp_idx (v : Byte) : (setTyp v s).idx = s.idx := rfl
@[simp] theorem setTyp_typ (v : Byte) : (setTyp v s).typ = v := rfl
@[simp] theorem setTyp_buf (v : Byte) : (setTyp v s).buf = s.buf := rfl
@[simp] theorem setTyp_halted (v : Byte) : (setTyp v s).halted = s.halted := rfl
@[simp] theorem setTyp_inputs (v : Byte) : (setTyp v s).inputs = s.inputs := rfl
@[simp] theorem setTyp_stream (v : Byte) : (setTyp v s).stream = s.stream := rfl
@[simp] theorem setTyp_out (v : Byte) : (setTyp v s).out = s.out := rfl
@[simp] theorem setTyp_host (v : Byte) : (setTyp v s).host = s.host := rfl
@[simp] theorem setTyp_seen (v : Byte) : (setTyp v s).seen = s.seen := rfl
@[simp] theorem setTyp_free (v : Byte) : (setTyp v s).free = s.free := rfl

/-! ### `storeByte` -/

@[simp] theorem storeByte_idx (k : Fin Config.payloadLen) (b : Byte) : (storeByte k b s).idx = s.idx := rfl
@[simp] theorem storeByte_typ (k : Fin Config.payloadLen) (b : Byte) : (storeByte k b s).typ = s.typ := rfl
@[simp] theorem storeByte_buf (k : Fin Config.payloadLen) (b : Byte) : (storeByte k b s).buf = Memory.store s.buf k b := rfl
@[simp] theorem storeByte_halted (k : Fin Config.payloadLen) (b : Byte) : (storeByte k b s).halted = s.halted := rfl
@[simp] theorem storeByte_inputs (k : Fin Config.payloadLen) (b : Byte) : (storeByte k b s).inputs = s.inputs := rfl
@[simp] theorem storeByte_stream (k : Fin Config.payloadLen) (b : Byte) : (storeByte k b s).stream = s.stream := rfl
@[simp] theorem storeByte_out (k : Fin Config.payloadLen) (b : Byte) : (storeByte k b s).out = s.out := rfl
@[simp] theorem storeByte_host (k : Fin Config.payloadLen) (b : Byte) : (storeByte k b s).host = s.host := rfl
@[simp] theorem storeByte_seen (k : Fin Config.payloadLen) (b : Byte) : (storeByte k b s).seen = s.seen := rfl
@[simp] theorem storeByte_free (k : Fin Config.payloadLen) (b : Byte) : (storeByte k b s).free = s.free := rfl

/-! ### `forgetTyp` -/

@[simp] theorem forgetTyp_idx : (forgetTyp s).idx = s.idx := rfl
@[simp] theorem forgetTyp_typ : (forgetTyp s).typ = Config.freeTyp s.free := rfl
@[simp] theorem forgetTyp_buf : (forgetTyp s).buf = s.buf := rfl
@[simp] theorem forgetTyp_halted : (forgetTyp s).halted = s.halted := rfl
@[simp] theorem forgetTyp_inputs : (forgetTyp s).inputs = s.inputs := rfl
@[simp] theorem forgetTyp_stream : (forgetTyp s).stream = s.stream := rfl
@[simp] theorem forgetTyp_out : (forgetTyp s).out = s.out := rfl
@[simp] theorem forgetTyp_host : (forgetTyp s).host = s.host := rfl
@[simp] theorem forgetTyp_seen : (forgetTyp s).seen = s.seen := rfl
@[simp] theorem forgetTyp_free : (forgetTyp s).free = s.free + 1 := rfl

/-! ### `rearm` -/

@[simp] theorem rearm_idx : (rearm s).idx = 0#3 := rfl
@[simp] theorem rearm_typ : (rearm s).typ = Config.freeTyp s.free := rfl
@[simp] theorem rearm_buf : (rearm s).buf = [] := rfl
@[simp] theorem rearm_halted : (rearm s).halted = s.halted := rfl
@[simp] theorem rearm_inputs : (rearm s).inputs = s.inputs := rfl
@[simp] theorem rearm_stream : (rearm s).stream = s.stream := rfl
@[simp] theorem rearm_out : (rearm s).out = s.out := rfl
@[simp] theorem rearm_host : (rearm s).host = s.host := rfl
@[simp] theorem rearm_seen : (rearm s).seen = s.seen := rfl
@[simp] theorem rearm_free : (rearm s).free = s.free + 1 := rfl

/-! ### `driveDecoder` -/

@[simp] theorem driveDecoder_idx (m : Msg) : (driveDecoder m s).idx = s.idx := rfl
@[simp] theorem driveDecoder_typ (m : Msg) : (driveDecoder m s).typ = s.typ := rfl
@[simp] theorem driveDecoder_buf (m : Msg) : (driveDecoder m s).buf = s.buf := rfl
@[simp] theorem driveDecoder_halted (m : Msg) : (driveDecoder m s).halted = s.halted := rfl
@[simp] theorem driveDecoder_inputs (m : Msg) : (driveDecoder m s).inputs = s.inputs := rfl
@[simp] theorem driveDecoder_stream (m : Msg) : (driveDecoder m s).stream = s.stream := rfl
@[simp] theorem driveDecoder_out (m : Msg) : (driveDecoder m s).out = { s.out with dec := some m } := rfl
@[simp] theorem driveDecoder_host (m : Msg) : (driveDecoder m s).host = s.host := rfl
@[simp] theorem driveDecoder_seen (m : Msg) : (driveDecoder m s).seen = s.seen := rfl
@[simp] theorem driveDecoder_free (m : Msg) : (driveDecoder m s).free = s.free := rfl

/-! ### `emit` -/

@[simp] theorem emit_idx (m : Msg) : (emit m s).idx = s.idx := rfl
@[simp] theorem emit_typ (m : Msg) : (emit m s).typ = s.typ := rfl
@[simp] theorem emit_buf (m : Msg) : (emit m s).buf = s.buf := rfl
@[simp] theorem emit_halted (m : Msg) : (emit m s).halted = s.halted := rfl
@[simp] theorem emit_inputs (m : Msg) : (emit m s).inputs = s.inputs := rfl
@[simp] theorem emit_stream (m : Msg) : (emit m s).stream = s.stream := rfl
@[simp] theorem emit_out (m : Msg) : (emit m s).out = { s.out with msg := some m } := rfl
@[simp] theorem emit_host (m : Msg) : (emit m s).host = s.host := rfl
@[simp] theorem emit_seen (m : Msg) : (emit m s).seen = { s.seen with trace := s.seen.trace ++ [m] } := rfl
@[simp] theorem emit_free (m : Msg) : (emit m s).free = s.free := rfl

/-! ### `pulseRdRelease` -/

@[simp] theorem pulseRdRelease_idx : (pulseRdRelease s).idx = s.idx := rfl
@[simp] theorem pulseRdRelease_typ : (pulseRdRelease s).typ = s.typ := rfl
@[simp] theorem pulseRdRelease_buf : (pulseRdRelease s).buf = s.buf := rfl
@[simp] theorem pulseRdRelease_halted : (pulseRdRelease s).halted = s.halted := rfl
@[simp] theorem pulseRdRelease_inputs : (pulseRdRelease s).inputs = s.inputs := rfl
@[simp] theorem pulseRdRelease_stream : (pulseRdRelease s).stream = s.stream := rfl
@[simp] theorem pulseRdRelease_out : (pulseRdRelease s).out = { s.out with rdRelease := true } := rfl
@[simp] theorem pulseRdRelease_host : (pulseRdRelease s).host = s.host := rfl
@[simp] theorem pulseRdRelease_seen :
    (pulseRdRelease s).seen = { s.seen with rdReleases := s.seen.rdReleases + 1 } := rfl
@[simp] theorem pulseRdRelease_free : (pulseRdRelease s).free = s.free := rfl

/-! ### `pulseCloseReq` -/

@[simp] theorem pulseCloseReq_idx : (pulseCloseReq s).idx = s.idx := rfl
@[simp] theorem pulseCloseReq_typ : (pulseCloseReq s).typ = s.typ := rfl
@[simp] theorem pulseCloseReq_buf : (pulseCloseReq s).buf = s.buf := rfl
@[simp] theorem pulseCloseReq_halted : (pulseCloseReq s).halted = s.halted := rfl
@[simp] theorem pulseCloseReq_inputs : (pulseCloseReq s).inputs = s.inputs := rfl
@[simp] theorem pulseCloseReq_stream : (pulseCloseReq s).stream = s.stream := rfl
@[simp] theorem pulseCloseReq_out : (pulseCloseReq s).out = { s.out with closeReq := true } := rfl
@[simp] theorem pulseCloseReq_host : (pulseCloseReq s).host = s.host := rfl
@[simp] theorem pulseCloseReq_seen : (pulseCloseReq s).seen = { s.seen with closeReqs := s.seen.closeReqs + 1 } := rfl
@[simp] theorem pulseCloseReq_free : (pulseCloseReq s).free = s.free := rfl

/-! ### `resetBlock` -/

@[simp] theorem resetBlock_idx : (resetBlock s).idx = 0#3 := rfl
@[simp] theorem resetBlock_typ : (resetBlock s).typ = Config.freeTyp s.free := rfl
@[simp] theorem resetBlock_buf : (resetBlock s).buf = [] := rfl
@[simp] theorem resetBlock_halted : (resetBlock s).halted = false := rfl
@[simp] theorem resetBlock_inputs : (resetBlock s).inputs = s.inputs := rfl
@[simp] theorem resetBlock_stream : (resetBlock s).stream = s.stream := rfl
@[simp] theorem resetBlock_out : (resetBlock s).out = s.out := rfl
@[simp] theorem resetBlock_host : (resetBlock s).host = { s.host with connected := false } := rfl
@[simp] theorem resetBlock_seen : (resetBlock s).seen = s.seen := rfl
@[simp] theorem resetBlock_free : (resetBlock s).free = s.free + 1 := rfl

/-! ### `transmit` -/

@[simp] theorem transmit_idx (bs : List Byte) : (transmit bs s).idx = s.idx := rfl
@[simp] theorem transmit_typ (bs : List Byte) : (transmit bs s).typ = s.typ := rfl
@[simp] theorem transmit_buf (bs : List Byte) : (transmit bs s).buf = s.buf := rfl
@[simp] theorem transmit_halted (bs : List Byte) : (transmit bs s).halted = s.halted := rfl
@[simp] theorem transmit_inputs (bs : List Byte) : (transmit bs s).inputs = s.inputs := rfl
@[simp] theorem transmit_stream (bs : List Byte) : (transmit bs s).stream = s.stream := rfl
@[simp] theorem transmit_out (bs : List Byte) : (transmit bs s).out = s.out := rfl
@[simp] theorem transmit_host (bs : List Byte) : (transmit bs s).host = s.host := rfl
@[simp] theorem transmit_seen (bs : List Byte) :
    (transmit bs s).seen = { s.seen with sent := s.seen.sent ++ [bs] } := rfl
@[simp] theorem transmit_free (bs : List Byte) : (transmit bs s).free = s.free := rfl

/-! ### `beginStep` -/

@[simp] theorem beginStep_idx (p : Signals) : (beginStep p s).idx = s.idx := rfl
@[simp] theorem beginStep_typ (p : Signals) : (beginStep p s).typ = s.typ := rfl
@[simp] theorem beginStep_buf (p : Signals) : (beginStep p s).buf = s.buf := rfl
@[simp] theorem beginStep_halted (p : Signals) : (beginStep p s).halted = s.halted := rfl
@[simp] theorem beginStep_inputs (p : Signals) : (beginStep p s).inputs = s.inputs := rfl
@[simp] theorem beginStep_stream (p : Signals) : (beginStep p s).stream = s.stream := rfl
@[simp] theorem beginStep_out (p : Signals) :
    (beginStep p s).out = { Outputs.quiet with inReady := inReady p s } := rfl
@[simp] theorem beginStep_host (p : Signals) : (beginStep p s).host = s.host := rfl
@[simp] theorem beginStep_seen (p : Signals) : (beginStep p s).seen = s.seen := rfl
@[simp] theorem beginStep_free (p : Signals) : (beginStep p s).free = s.free := rfl

/-! ### `deliver` -/

@[simp] theorem deliver_idx (c : List Byte) : (deliver c s).idx = s.idx := rfl
@[simp] theorem deliver_typ (c : List Byte) : (deliver c s).typ = s.typ := rfl
@[simp] theorem deliver_buf (c : List Byte) : (deliver c s).buf = s.buf := rfl
@[simp] theorem deliver_halted (c : List Byte) : (deliver c s).halted = s.halted := rfl
@[simp] theorem deliver_inputs (c : List Byte) :
    (deliver c s).inputs = s.inputs ++ c.map (fun _ => .ports Signals.byteOffer) := rfl
@[simp] theorem deliver_stream (c : List Byte) : (deliver c s).stream = s.stream ++ c := rfl
@[simp] theorem deliver_out (c : List Byte) : (deliver c s).out = s.out := rfl
@[simp] theorem deliver_host (c : List Byte) : (deliver c s).host = s.host := rfl
@[simp] theorem deliver_seen (c : List Byte) : (deliver c s).seen = s.seen := rfl
@[simp] theorem deliver_free (c : List Byte) : (deliver c s).free = s.free := rfl

/-! ### `registerHandler` -/

@[simp] theorem registerHandler_idx (k : Int) (h : Nat) : (registerHandler k h s).idx = s.idx := rfl
@[simp] theorem registerHandler_typ (k : Int) (h : Nat) : (registerHandler k h s).typ = s.typ := rfl
@[simp] theorem registerHandler_buf (k : Int) (h : Nat) : (registerHandler k h s).buf = s.buf := rfl
@[simp] theorem registerHandler_halted (k : Int) (h : Nat) : (registerHandler k h s).halted = s.halted := rfl
@[simp] theorem registerHandler_inputs (k : Int) (h : Nat) : (registerHandler k h s).inputs = s.inputs := rfl
@[simp] theorem registerHandler_stream (k : Int) (h : Nat) : (registerHandler k h s).stream = s.stream := rfl
@[simp] theorem registerHandler_out (k : Int) (h : Nat) : (registerHandler k h s).out = s.out := rfl
@[simp] theorem registerHandler_host (k : Int) (h : Nat) :
    (registerHandler k h s).host = { s.host with registry := Registry.set s.host.registry k h } := rfl
@[simp] theorem registerHandler_seen (k : Int) (h : Nat) : (registerHandler k h s).seen = s.seen := rfl
@[simp] theorem registerHandler_free (k : Int) (h : Nat) : (registerHandler k h s).free = s.free := rfl

/-! ### `recordCall` -/

@[simp] theorem recordCall_idx (h : Nat) (v : Value) : (recordCall h v s).idx = s.idx := rfl
@[simp] theorem recordCall_typ (h : Nat) (v : Value) : (recordCall h v s).typ = s.typ := rfl
@[simp] theorem recordCall_buf (h : Nat) (v : Value) : (recordCall h v s).buf = s.buf := rfl
@[simp] theorem recordCall_halted (h : Nat) (v : Value) : (recordCall h v s).halted = s.halted := rfl
@[simp] theorem recordCall_inputs (h : Nat) (v : Value) : (recordCall h v s).inputs = s.inputs := rfl
@[simp] theorem recordCall_stream (h : Nat) (v : Value) : (recordCall h v s).stream = s.stream := rfl
@[simp] theorem recordCall_out (h : Nat) (v : Value) : (recordCall h v s).out = s.out := rfl
@[simp] theorem recordCall_host (h : Nat) (v : Value) : (recordCall h v s).host = s.host := rfl
@[simp] theorem recordCall_seen (h : Nat) (v : Value) :
    (recordCall h v s).seen = { s.seen with calls := s.seen.calls ++ [⟨h, readValue s.host.reading v⟩] } := rfl
@[simp] theorem recordCall_free (h : Nat) (v : Value) : (recordCall h v s).free = s.free := rfl

/-! ### `takeHalt`: what a halt of either cause leaves alone, and what each drives -/

@[simp] theorem takeHalt_idx (c : HaltCause) : (takeHalt c s).idx = s.idx := by cases c <;> rfl
@[simp] theorem takeHalt_typ (c : HaltCause) : (takeHalt c s).typ = s.typ := by cases c <;> rfl
@[simp] theorem takeHalt_buf (c : HaltCause) : (takeHalt c s).buf = s.buf := by cases c <;> rfl
@[simp] theorem takeHalt_inputs (c : HaltCause) : (takeHalt c s).inputs = s.inputs := by cases c <;> rfl
@[simp] theorem takeHalt_stream (c : HaltCause) : (takeHalt c s).stream = s.stream := by cases c <;> rfl
@[simp] theorem takeHalt_host (c : HaltCause) : (takeHalt c s).host = s.host := by cases c <;> rfl
@[simp] theorem takeHalt_free (c : HaltCause) : (takeHalt c s).free = s.free := by cases c <;> rfl
@[simp] theorem takeHalt_halted (c : HaltCause) : (takeHalt c s).halted = true := by cases c <;> rfl
@[simp] theorem takeHalt_err_out : (takeHalt .err s).out = { s.out with rdRelease := true } := rfl
@[simp] theorem takeHalt_eos_out : (takeHalt .eos s).out = { s.out with rdRelease := true, closeReq := true } := rfl
@[simp] theorem takeHalt_err_seen : (takeHalt .err s).seen = { s.seen with rdReleases := s.seen.rdReleases + 1 } := rfl
@[simp] theorem takeHalt_eos_seen : (takeHalt .eos s).seen =
    { s.seen with rdReleases := s.seen.rdReleases + 1, closeReqs := s.seen.closeReqs + 1 } := rfl

/-! ### `beginConnection` -/

@[simp] theorem beginConnection_idx (p : Signals) : (beginConnection p s).idx = s.idx := rfl
@[simp] theorem beginConnection_typ (p : Signals) : (beginConnection p s).typ = s.typ := rfl
@[simp] theorem beginConnection_buf (p : Signals) : (beginConnection p s).buf = s.buf := rfl
@[simp] theorem beginConnection_halted (p : Signals) : (beginConnection p s).halted = s.halted := rfl
@[simp] theorem beginConnection_inputs (p : Signals) : (beginConnection p s).inputs = s.inputs := rfl
@[simp] theorem beginConnection_stream (p : Signals) : (beginConnection p s).stream = s.stream := rfl
@[simp] theorem beginConnection_out (p : Signals) : (beginConnection p s).out = s.out := rfl
@[simp] theorem beginConnection_seen (p : Signals) : (beginConnection p s).seen = s.seen := rfl
@[simp] theorem beginConnection_free (p : Signals) : (beginConnection p s).free = s.free := rfl
@[simp] theorem beginConnection_host (p : Signals) : (beginConnection p s).host
    = { s.host with connected := s.host.connected || connectionEvent p s } := rfl

/-- A step that is no event of a connection leaves the state as it was. -/
theorem beginConnection_eq_self {p : Signals} (h : connectionEvent p s = false) : beginConnection p s = s := by
  simp [beginConnection, h]

/-- With nothing presented there is no event of a connection. -/
@[simp] theorem connectionEvent_none : connectionEvent Signals.none s = false := by
  simp [connectionEvent, offered, Signals.none]

/-- The connection of a run begins with an event only. -/
theorem connected_of_event {p : Signals} (h : connectionEvent p s = true) : (beginConnection p s).host.connected = true := by
  simp [h]

end Sys2Proof.Machine
end

