-- ==== Sys2Proof/Tests/Slice0.lean ====
section
/-! SUPPORT. The model's own tests: ill-formed terms, words written out from the spec's encodings, single steps taken
from spec/95_test_vectors.md, and for every statement with hypotheses a state that meets them. -/

namespace Sys2Proof.Tests

open Sys2Proof.Machine

/-! ### Well-formedness refuses what no pattern admits -/

theorem test_wf_syncSkip_not_start : (Instr.syncSkip 0xFE#8).wellFormed = false := by decide
theorem test_wf_endAbsorb_not_end : (Instr.endAbsorb 0xFF#8).wellFormed = false := by decide
theorem test_wf_decBe32_known_only : (Instr.decBe32 2#8).wellFormed = false := by decide
theorem test_wf_decZero_unknown_only :
    (Instr.decZero 0#8).wellFormed = false ∧ (Instr.decZero 1#8).wellFormed = false := by decide
theorem test_wf_admits_neighbours :
    (Instr.syncSkip 0xFF#8).wellFormed = true ∧ (Instr.endAbsorb 0xFE#8).wellFormed = true
    ∧ (Instr.decBe32 1#8).wellFormed = true ∧ (Instr.decZero 2#8).wellFormed = true := by decide

/-! ### Decoding, words written out from R48, R49, R50, R89, R91 -/

/-- `rst` alone, with every other bit set, and with none (R49 `1xxxx xxx xxxxxxxx`). -/
theorem test_decode_reset : decodeTableWord 16 0b1000000000000000 = some .reset
    ∧ decodeTableWord 16 0b1111111111111111 = some .reset := by decide
theorem test_decode_haltedHold : decodeTableWord 16 0b0100000000000000 = some .haltedHold
    ∧ decodeTableWord 16 0b0111111111111111 = some .haltedHold := by decide
theorem test_decode_err : decodeTableWord 16 0b0010000000000000 = some .err
    ∧ decodeTableWord 16 0b0011111111111111 = some .err := by decide
theorem test_decode_eos : decodeTableWord 16 0b0001000000000000 = some .eos
    ∧ decodeTableWord 16 0b0001111111111111 = some .eos := by decide
theorem test_decode_idle : decodeTableWord 16 0 = some .idle ∧ decodeTableWord 16 0b0000011111111111 = some .idle := by
  decide
theorem test_decode_syncHit : decodeTableWord 16 0b0000100011111110 = some .syncHit := by decide
theorem test_decode_syncSkip : decodeTableWord 16 0b0000100011111111 = some (.syncSkip 0xFF#8)
    ∧ decodeTableWord 16 0b0000100011111101 = some (.syncSkip 0xFD#8) := by decide
theorem test_decode_typeByte : decodeTableWord 16 0b0000100111111110 = some (.typeByte 0xFE#8) := by decide
theorem test_decode_pay0 : decodeTableWord 16 0b0000101000010010 = some (.pay0 0x12#8) := by decide
theorem test_decode_pay1 : decodeTableWord 16 0b0000101100110100 = some (.pay1 0x34#8) := by decide
theorem test_decode_pay2 : decodeTableWord 16 0b0000110001010110 = some (.pay2 0x56#8) := by decide
theorem test_decode_pay3 : decodeTableWord 16 0b0000110111111111 = some (.pay3 0xFF#8) := by decide
theorem test_decode_endHit : decodeTableWord 16 0b0000111011111111 = some .endHit := by decide
theorem test_decode_endAbsorb : decodeTableWord 16 0b0000111011111110 = some (.endAbsorb 0xFE#8) := by decide
theorem test_decode_reservedIdx7 : decodeTableWord 16 0b0000111100000000 = some (.reservedIdx7 0#8) := by decide
/-- `T[7:1] == 0` (R50), and the vectors' list: 02, 80, FF go to DEC.ZERO. -/
theorem test_decode_decBe32 : decodeTableWord 8 0 = some (.decBe32 0#8) ∧ decodeTableWord 8 1 = some (.decBe32 1#8) := by
  decide
theorem test_decode_decZero : decodeTableWord 8 2 = some (.decZero 2#8) ∧ decodeTableWord 8 0x80 = some (.decZero 0x80#8)
    ∧ decodeTableWord 8 0xFF = some (.decZero 0xFF#8) := by decide
/-- `11111110 cccccccc 00000000 11111111` (R89). -/
theorem test_decode_encSimple : decodeTableWord 32 0b11111110000000100000000011111111 = some (.encSimple 2#8) := by
  decide
/-- The program frame of MR §8 (vector T-E-8). -/
theorem test_decode_encProgram :
    decodeTableWord 104 0xFE0409000005DC000000FA03FF = some (.encProgram 1500#32 250#32 3#8) := by decide
theorem test_decode_rejects_by_name :
    decodeBytes [0xFE#8, 0x02#8, 0x01#8, 0xFF#8] = .error .notASimpleFrame
    ∧ decodeBytes [0xFE#8, 0x02#8, 0x00#8] = .error .noSuchFormat
    ∧ decodeBytes (List.replicate 13 0#8) = .error .notAProgramFrame := by decide
theorem test_decode_bytes : decodeBytes [0x0E#8, 0xFF#8] = .ok .endHit
    ∧ decodeBytes [0xFE#8, 0x02#8, 0x00#8, 0xFF#8] = .ok (.encSimple 2#8) := by decide

/-! ### Single steps, from 95_test_vectors.md -/

/-- A state with the given parser state; what a vector does not mention is as after reset. -/
def parserAt (idx : BitVec 3) (typ : Byte) (buf : List Byte) (halted : Bool) : State :=
  { State.reset with idx := idx, typ := typ, buf := (List.range buf.length).zip buf, halted := halted }

/-- Present these control inputs, and this byte at the head of the stream. -/
def present (p : Signals) (bs : List Byte) (s : State) : State := { s with inputs := [.ports p], stream := bs }

/-- Offer one byte. -/
def offerByte (b : Byte) (s : State) : State := present Signals.byteOffer [b] s

/-- A field of the next state. -/
def look {α : Type} (f : State → α) : Host.Outcome State Fault Refusal → Option α
  | .next t => some (f t)
  | _ => none

/-- Vector T-F-1. -/
theorem test_syncHit : look (fun t => (t.idx, t.stream)) (step (offerByte 0xFE#8 (parserAt 0#3 0#8 [] false)))
    = some (1#3, []) := by decide
/-- Vectors T-F-3 and T-F-4. -/
theorem test_syncSkip_end_marker : look (fun t => (t.idx, t.stream)) (step (offerByte 0xFF#8 (parserAt 0#3 0#8 [] false)))
    = some (0#3, []) := by decide
theorem test_syncSkip_near_marker : look (fun t => t.idx) (step (offerByte 0xFD#8 (parserAt 0#3 0#8 [] false)))
    = some 0#3 := by decide
/-- Vectors T-F-7 and T-F-8: markers are data here. -/
theorem test_typeByte_start_marker : look (fun t => (t.typ, t.idx)) (step (offerByte 0xFE#8 (parserAt 1#3 0#8 [] false)))
    = some (0xFE#8, 2#3) := by decide
theorem test_typeByte_end_marker : look (fun t => (t.typ, t.idx)) (step (offerByte 0xFF#8 (parserAt 1#3 0#8 [] false)))
    = some (0xFF#8, 2#3) := by decide
/-- Vectors T-F-9 to T-F-12, T-F-13, T-F-14. -/
theorem test_pay0 : look (fun t => (t.buf, t.idx)) (step (offerByte 0xFF#8 (parserAt 2#3 0#8 [] false)))
    = some ([(0, 0xFF#8)], 3#3) := by decide
theorem test_pay1 : look (fun t => (t.buf, t.idx)) (step (offerByte 0x34#8 (parserAt 3#3 0#8 [0x12#8] false)))
    = some ([(0, 0x12#8), (1, 0x34#8)], 4#3) := by decide
theorem test_pay2 : look (fun t => (t.buf, t.idx)) (step (offerByte 0x56#8 (parserAt 4#3 0#8 [0x12#8, 0x34#8] false)))
    = some ([(0, 0x12#8), (1, 0x34#8), (2, 0x56#8)], 5#3) := by decide
theorem test_pay3 :
    look (fun t => (t.buf, t.idx)) (step (offerByte 0xFF#8 (parserAt 5#3 0#8 [0#8, 0#8, 0#8] false)))
    = some ([(0, 0#8), (1, 0#8), (2, 0#8), (3, 0xFF#8)], 6#3) := by decide

/-- The pending frame of vectors T-F-16 to T-F-20. -/
def pending (typ : Byte) : State := parserAt 6#3 typ [0x12#8, 0x34#8, 0x56#8, 0x78#8] false

/-- Vector T-F-16. -/
theorem test_endHit_known : look (fun t => (t.idx, t.buf, t.seen.trace)) (step (offerByte 0xFF#8 (pending 0#8)))
    = some (0#3, [], [⟨0#8, 0x12345678#32⟩]) := by decide
/-- Vector T-F-20: no handler for 5, re-armed all the same. -/
theorem test_endHit_unknown :
    look (fun t => (t.idx, t.buf, t.seen.trace, t.seen.calls)) (step (offerByte 0xFF#8 (pending 5#8)))
    = some (0#3, [], [⟨5#8, 0#32⟩], []) := by decide
/-- Vectors T-F-18 and T-F-19. -/
theorem test_endAbsorb_start_marker :
    look (fun t => (t.idx, t.typ, t.buf, t.seen.trace)) (step (offerByte 0xFE#8 (pending 0#8)))
    = some (6#3, 0#8, (pending 0#8).buf, []) := by decide
theorem test_endAbsorb_one_bit : look (fun t => (t.idx, t.buf, t.stream)) (step (offerByte 0x7F#8 (pending 0#8)))
    = some (6#3, (pending 0#8).buf, []) := by decide

/-- Vectors T-C-1 and T-C-12. -/
theorem test_eos : look (fun t => (t.halted, t.idx, t.buf, t.out.closeReq, t.out.rdRelease))
    (step (present ⟨false, false, true, false⟩ [] (parserAt 3#3 1#8 [0#8] false)))
    = some (true, 3#3, [(0, 0#8)], true, true) := by decide
theorem test_eos_byte_not_consumed : look (fun t => (t.halted, t.idx, t.buf, t.stream))
    (step (present ⟨false, false, true, true⟩ [5#8] (parserAt 2#3 0#8 [] false))) = some (true, 2#3, [], [5#8]) := by decide
/-- Vectors T-C-2 and T-C-9. -/
theorem test_err : look (fun t => (t.halted, t.idx, t.out.closeReq, t.out.rdRelease))
    (step (present ⟨false, true, false, false⟩ [] (parserAt 4#3 1#8 [0#8, 0#8] false)))
    = some (true, 4#3, false, true) := by decide
theorem test_err_over_eos : look (fun t => (t.halted, t.seen.closeReqs, t.seen.rdReleases))
    (step (present ⟨false, true, true, false⟩ [] (parserAt 0#3 0#8 [] false))) = some (true, 0, 1) := by decide
/-- Vectors T-C-3 and T-C-4. -/
theorem test_haltedHold_byte : look (fun t => (t.halted, t.idx, t.stream, t.out))
    (step (offerByte 0xFF#8 (parserAt 3#3 1#8 [0#8] true))) = some (true, 3#3, [0xFF#8], Outputs.quiet) := by decide
theorem test_haltedHold_eos : look (fun t => (t.halted, t.seen.closeReqs, t.seen.rdReleases))
    (step (present ⟨false, false, true, false⟩ [] (parserAt 3#3 1#8 [0#8] true))) = some (true, 0, 0) := by decide
/-- Vectors T-C-6 and T-C-7. -/
theorem test_reset_from_halt : look (fun t => (t.idx, t.buf, t.halted))
    (step (present ⟨true, false, false, false⟩ [] (parserAt 3#3 1#8 [0#8] true))) = some (0#3, [], false) := by decide
theorem test_reset_discards_frame : look (fun t => (t.idx, t.buf, t.seen.trace, t.stream))
    (step (present ⟨true, false, false, true⟩ [0xFF#8] (pending 0#8))) = some (0#3, [], [], [0xFF#8]) := by decide
/-- Vector T-C-11. -/
theorem test_idle : look (fun t => (t.idx, t.typ, t.halted)) (step (present Signals.none [] (parserAt 2#3 0#8 [] false)))
    = some (2#3, 0#8, false) := by decide
/-- 93 U4: step words `0x0F00`..`0x0FFF` get no meaning. -/
theorem test_reservedIdx7 : exec (.reservedIdx7 0#8) State.reset = .refused .reservedIdx7 := rfl

/-- Vectors T-D-7 and T-D-15, the decoder run alone. -/
theorem test_decBe32 : look (fun t => t.out.dec) (step { pending 1#8 with inputs := [.decoder] })
    = some (some ⟨1#8, 0x12345678#32⟩) := by decide
theorem test_decZero : look (fun t => t.out.dec) (step { pending 2#8 with inputs := [.decoder] })
    = some (some ⟨2#8, 0#32⟩) := by decide
/-- Vectors T-D-10 to T-D-12, both readings. -/
theorem test_readings : readValue .unsigned 0x80000000#32 = 2147483648 ∧ readValue .signed 0x80000000#32 = -2147483648
    ∧ readValue .signed 0xFFFFFFFF#32 = -1 ∧ readValue .signed 0x000000FE#32 = 254 := by decide

/-- A state about to make a host call. -/
def calling (c : HostCall) : State := { State.reset with inputs := [.call c] }

/-- Vector T-E-3. -/
theorem test_encSimple : look (fun t => t.seen.sent) (step (calling (.sendCommand .left)))
    = some [[0xFE#8, 0x02#8, 0x00#8, 0xFF#8]] := by decide
/-- Vectors T-E-8 (1.5 and 0.25 scaled) and T-E-10 (a count of 259). -/
theorem test_encProgram_scaled :
    look (fun t => t.seen.sent) (step (calling (.sendProgram ⟨⟨3, 2⟩, ⟨1500, 1⟩⟩ ⟨⟨1, 4⟩, ⟨250, 1⟩⟩ ⟨3, 1⟩)))
    = some [[0xFE#8, 4#8, 9#8, 0#8, 0#8, 0x05#8, 0xDC#8, 0#8, 0#8, 0#8, 0xFA#8, 3#8, 0xFF#8]] := by decide
theorem test_encProgram_count :
    look (fun t => t.seen.sent) (step (calling (.sendProgramInt 1500#32 250#32 259)))
    = some [[0xFE#8, 4#8, 9#8, 0#8, 0#8, 0x05#8, 0xDC#8, 0#8, 0#8, 0#8, 0xFA#8, 3#8, 0xFF#8]] := by decide

/-- The pending frame of type 0 with a registry and handler runs. -/
def hosted (registry : Registry) (runs : List HandlerRun) : State :=
  { pending 0#8 with host := { registry := registry, handlerRuns := runs, reading := .signed, connected := true } }

/-- Vector T-X-6: the handler registers another one, which counts from the next dispatch on. -/
theorem test_dispatch_reregisters :
    look (fun t => (t.seen.calls, t.host.registry)) (step (offerByte 0xFF#8 (hosted [(0, 10)] [⟨[.register 0 11], .returns⟩])))
    = some ([⟨10, 305419896⟩], [(0, 11)]) := by decide
/-- Vector T-X-7: key 300 is never called. -/
theorem test_dispatch_key_out_of_range :
    look (fun t => t.seen.calls) (step (offerByte 0xFF#8 (hosted [(300, 10)] []))) = some [] := by decide
/-- S8: the last registration wins. -/
theorem test_register_overwrites :
    look (fun t => t.host.registry) (step { hosted [(0, 10)] [] with inputs := [.call (.register 0 11)] })
    = some [(0, 11)] := by decide

/-- An operation word of each format, placed after reset, is the one the next step runs. -/
theorem test_word_placed_for_every_format :
    look (fun t => (t.idx, t.seen.trace.length)) (step (State.reset.withFetchWord 16 0x0EFF)) = some (0#3, 1)
    ∧ look (fun t => t.out.dec.isSome) (step (State.reset.withFetchWord 8 0x80)) = some true
    ∧ look (fun t => t.seen.sent.length) (step (State.reset.withFetchWord 32 0xFE0200FF)) = some 1
    ∧ look (fun t => t.seen.sent.length) (step (State.reset.withFetchWord 104 0xFE0409000005DC000000FA03FF)) = some 1
    := by decide

/-- R25: nothing pending after reset. -/
theorem test_reset_ports_idle : State.reset.out.msg = none ∧ State.reset.inputs = [] ∧ State.reset.buf = [] := by decide

/-- The rows of "any byte but" are the table's (spec/opcode_table.json, R49, R50). -/
theorem test_rows_of_any_byte_but :
    (butRows 0#3 Config.startMarker .syncSkip).map (fun r => (r.mask, r.pat)) =
      [(0xFF80#16, 0x0800#16), (0xFFC0#16, 0x0880#16), (0xFFE0#16, 0x08C0#16), (0xFFF0#16, 0x08E0#16),
       (0xFFF8#16, 0x08F0#16), (0xFFFC#16, 0x08F8#16), (0xFFFE#16, 0x08FC#16), (0xFFFF#16, 0x08FF#16)]
    ∧ (butRows 6#3 Config.endMarker .endAbsorb).map (fun r => (r.mask, r.pat)) =
      [(0xFF80#16, 0x0E00#16), (0xFFC0#16, 0x0E80#16), (0xFFE0#16, 0x0EC0#16), (0xFFF0#16, 0x0EE0#16),
       (0xFFF8#16, 0x0EF0#16), (0xFFFC#16, 0x0EF8#16), (0xFFFE#16, 0x0EFC#16), (0xFFFF#16, 0x0EFE#16)]
    ∧ type8Rows.map (fun r => (r.mask, r.pat)) =
      [(0xFE#8, 0x00#8), (0x80#8, 0x80#8), (0xC0#8, 0x40#8), (0xE0#8, 0x20#8), (0xF0#8, 0x10#8), (0xF8#8, 0x08#8),
       (0xFC#8, 0x04#8), (0xFE#8, 0x02#8)] := by decide

/-- R87, 92 D15: a connect opens at the reset state and is refused once a byte or an end-of-stream came. -/
theorem test_connect_first : look (fun t => t.seen.opens) (step (calling (.connect 9600))) = some [9600] := by decide
theorem test_connect_after_events :
    Host.Core.run Sys2Proof.core 2 { State.reset with stream := [0x00#8], inputs := [.ports Signals.byteOffer,
      .call (.connect 9600)] } = .refused .secondConnection
    ∧ Host.Core.run Sys2Proof.core 2 { State.reset with inputs := [.ports Signals.endOfStream, .call (.connect 9600)] }
      = .refused .secondConnection := ⟨rfl, rfl⟩

/-! ### Witnesses: for every statement with hypotheses, a state and operands that meet them -/

theorem witness_DecodeOfEncodeIsIdentity : (Instr.syncSkip 0xFF#8).wellFormed = true
    ∧ (Instr.decZero 2#8).wellFormed = true ∧ (Instr.encProgram 0#32 0xFFFFFFFF#32 0xFF#8).wellFormed = true := by decide
theorem witness_EncodeOfDecodeIsIdentity : decode (.tx4 0xFEFF00FF#32) = .ok (.encSimple 0xFF#8)
    ∧ decode (.tx13 0xFE0409FFFFFFFF7FFFFFFF00FF#104) = .ok (.encProgram 0xFFFFFFFF#32 0x7FFFFFFF#32 0#8)
    ∧ (0x0800#16).extractLsb' 11 5 = 1#5 ∧ (0x0FFF#16).extractLsb' 11 5 = 1#5 := by decide
theorem witness_DecodedTermsAreWellFormed : decode (.step 0x08FF#16) = .ok (.syncSkip 0xFF#8)
    ∧ decode (.type8 2#8) = .ok (.decZero 2#8) := by decide

/-- A byte step: byte FF offered to the pending frame. -/
def endStep : State := offerByte 0xFF#8 (pending 0#8)

theorem witness_StepOpcodeMapIsExact : offered Signals.byteOffer endStep = some 0xFF#8 ∧ Signals.byteOffer.rst = false
    ∧ endStep.halted = false ∧ Signals.byteOffer.err = false ∧ Signals.byteOffer.eos = false := by decide
theorem witness_StepWordFields : offered Signals.byteOffer endStep = some 0xFF#8 := by decide
theorem witness_StepRunsDecodedOperation :
    (endStep.inputs = [.ports Signals.byteOffer] ∧ decode (.step (stepWord Signals.byteOffer endStep)) = .ok .endHit)
    ∧ ((pending 0#8).inputs = [] ∧ decode (.step (stepWord Signals.none (pending 0#8))) = .ok .idle)
    ∧ (({ pending 2#8 with inputs := [.decoder] } : State).inputs = [.decoder]
        ∧ decode (.type8 (pending 2#8).typ) = .ok (.decZero 2#8))
    ∧ (calling (.sendSimple 7#8)).inputs = [.call (.sendSimple 7#8)]
    ∧ (calling (.sendProgramInt 1#32 2#32 (-1))).inputs = [.call (.sendProgramInt 1#32 2#32 (-1))] := by decide
theorem witness_ByteConsumedExactlyWhenReady_ready :
    ∃ t, step endStep = .next t ∧ offered Signals.byteOffer endStep = some 0xFF#8 ∧ t.out.inReady = true :=
  ⟨_, rfl, by decide, by decide⟩
theorem witness_ByteConsumedExactlyWhenReady_held :
    ∃ t, step (offerByte 5#8 (parserAt 3#3 1#8 [0#8] true)) = .next t ∧ t.out.inReady = false := ⟨_, rfl, by decide⟩
theorem witness_ByteConsumedExactlyWhenReady_none :
    offered Signals.none (present Signals.none [] (pending 0#8)) = none
    ∧ ∃ t, step (present Signals.none [] (pending 0#8)) = .next t := ⟨by decide, _, rfl⟩

/-- The pending frame with a handler that registers, sends, and returns. -/
def dispatching : State :=
  offerByte 0xFF#8 (hosted [(0, 10)] [⟨[.register 0 11, .sendCommand .left, .sendSimple 9#8], .returns⟩])

theorem dispatching_handlerReturns : dispatching.handlerReturns := by
  refine .inr fun r hr => ?_
  cases hr
  exact ⟨rfl, by decide⟩

theorem witness_EveryEventHasANextState :
    dispatching.inputs = [.ports Signals.byteOffer] ∧ dispatching.idx.toNat ≤ 6 ∧ dispatching.handlerReturns :=
  ⟨rfl, by decide, dispatching_handlerReturns⟩
theorem witness_ResetEffect : (present ⟨true, true, true, true⟩ [0xFE#8] (parserAt 6#3 0#8 [0#8, 0#8, 0#8, 5#8] true)).inputs
    = [.ports ⟨true, true, true, true⟩] := rfl
theorem witness_ErrEffect : (present ⟨false, true, true, true⟩ [0xFE#8] (pending 0#8)).inputs
    = [.ports ⟨false, true, true, true⟩] ∧ (pending 0#8).halted = false := by decide
theorem witness_EosEffect : (present ⟨false, false, true, true⟩ [0xFF#8] (pending 0#8)).inputs
    = [.ports ⟨false, false, true, true⟩] ∧ (pending 0#8).halted = false := by decide
theorem witness_EosEffect_halted : (offerByte 0xFF#8 (parserAt 3#3 1#8 [0#8] true)).halted = true
    ∧ ∃ t, step (offerByte 0xFF#8 (parserAt 3#3 1#8 [0#8] true)) = .next t := ⟨rfl, _, rfl⟩
theorem witness_HaltedHoldEffect : (offerByte 0xFF#8 (parserAt 3#3 1#8 [0#8] true)).inputs = [.ports Signals.byteOffer]
    ∧ (offerByte 0xFF#8 (parserAt 3#3 1#8 [0#8] true)).halted = true ∧ Signals.byteOffer.rst = false := by decide
theorem witness_IdleEffect : (present Signals.byteOffer [] (pending 0#8)).inputs = [.ports Signals.byteOffer]
    ∧ (pending 0#8).halted = false ∧ offered Signals.byteOffer (present Signals.byteOffer [] (pending 0#8)) = none := by
  decide
theorem witness_ReservedIndexRefused : (offerByte 0#8 (parserAt 7#3 0#8 [] false)).inputs = [.ports Signals.byteOffer]
    ∧ (offerByte 0#8 (parserAt 7#3 0#8 [] false)).idx = 7#3
    ∧ offered Signals.byteOffer (offerByte 0#8 (parserAt 7#3 0#8 [] false)) = some 0#8 ∧ (6#3).toNat ≤ 6 := by decide
theorem witness_SyncSkipEffect : (0xFF#8 : Byte) ≠ 0xFE#8 := by decide
theorem witness_EndAbsorbEffect : (0xFE#8 : Byte) ≠ 0xFF#8 := by decide

theorem witness_EndHitEffect_dispatched : dispatching.handlerReturns
    ∧ Registry.find dispatching.host.registry (dispatching.typ.toNat : Int) = some 10
    ∧ dispatching.host.handlerRuns.head?.isSome = true ∧ dispatching.typ = 0#8
    ∧ Memory.load dispatching.buf 0 = some 0x12#8 ∧ Memory.load dispatching.buf 1 = some 0x34#8
    ∧ Memory.load dispatching.buf 2 = some 0x56#8 ∧ Memory.load dispatching.buf 3 = some 0x78#8 :=
  ⟨dispatching_handlerReturns, by decide, by decide, by decide, by decide, by decide, by decide, by decide⟩
theorem witness_EndHitEffect_dropped : (pending 5#8).handlerReturns
    ∧ Registry.find (pending 5#8).host.registry ((pending 5#8).typ.toNat : Int) = none
    ∧ ¬ ((pending 5#8).typ = 0#8 ∨ (pending 5#8).typ = 1#8) := ⟨.inl rfl, by decide, by decide⟩
theorem witness_HandlerRunEffect_no_run_listed : (hosted [(0, 10)] []).handlerReturns
    ∧ Registry.find (hosted [(0, 10)] []).host.registry ((hosted [(0, 10)] []).typ.toNat : Int) = some 10
    ∧ (hosted [(0, 10)] []).host.handlerRuns = [] := ⟨.inr (fun _ h => by cases h), by decide, rfl⟩
theorem witness_HandlerRunEffect_run : dispatching.handlerReturns
    ∧ Registry.find dispatching.host.registry (dispatching.typ.toNat : Int) = some 10
    ∧ dispatching.host.handlerRuns = ⟨[.register 0 11, .sendCommand .left, .sendSimple 9#8], .returns⟩ :: [] :=
  ⟨dispatching_handlerReturns, by decide, rfl⟩

theorem witness_FramerTable_hunting : (offerByte 0xFE#8 (parserAt 0#3 0#8 [] false)).stream.head? = some 0xFE#8
    ∧ ¬ (offerByte 0xFE#8 (parserAt 0#3 0#8 [] false)).idx = 6#3 := by decide
theorem witness_FramerTable_type : (offerByte 0xFF#8 (parserAt 1#3 0#8 [] false)).idx = 1#3
    ∧ ¬ (offerByte 0xFF#8 (parserAt 1#3 0#8 [] false)).idx = 6#3 := by decide
theorem witness_FramerTable_payload : (parserAt 2#3 0#8 [] false).idx.toNat = (0 : Fin 4).val + 2
    ∧ (parserAt 5#3 0#8 [0#8, 0#8, 0#8] false).idx.toNat = (3 : Fin 4).val + 2 := by decide
theorem witness_FramerTable_end : dispatching.idx = 6#3 ∧ dispatching.stream.head? = some 0xFF#8
    ∧ dispatching.halted = false ∧ dispatching.handlerReturns
    ∧ Memory.load dispatching.buf 0 = some 0x12#8 ∧ Memory.load dispatching.buf 1 = some 0x34#8
    ∧ Memory.load dispatching.buf 2 = some 0x56#8 ∧ Memory.load dispatching.buf 3 = some 0x78#8 :=
  ⟨by decide, by decide, by decide, dispatching_handlerReturns, by decide, by decide, by decide, by decide⟩
theorem witness_FramerTable_end_unregistered : endStep.idx = 6#3 ∧ endStep.stream.head? = some 0xFF#8
    ∧ endStep.halted = false ∧ endStep.handlerReturns := ⟨by decide, by decide, by decide, .inl rfl⟩
theorem witness_FramerTable_absorb : (offerByte 0xFE#8 (pending 0#8)).idx = 6#3
    ∧ (offerByte 0xFE#8 (pending 0#8)).stream.head? = some 0xFE#8 := by decide

theorem witness_MessageOnlyAtEndHit : (∃ t, step endStep = .next t)
    ∧ ∃ t, step (offerByte 0xFE#8 (pending 0#8)) = .next t := ⟨⟨_, rfl⟩, _, rfl⟩
theorem witness_EmissionsAreBounded : ∃ t, Host.Core.run Sys2Proof.core 1 endStep = .next t := ⟨_, rfl⟩
theorem witness_FramesAreTheLanguage :
    (let s : State := { hosted [(0, 10)] [⟨[.register 0 11], .returns⟩] with idx := 0#3 }
     s.idx = 0#3 ∧ s.halted = false ∧ s.inputs = [] ∧ s.stream = []
      ∧ ∀ r ∈ s.host.handlerRuns, r.ending = .returns ∧ r.acts.all HostCall.allowed = true)
    ∧ FrameSequence [0x12#8, 0xFE#8, 0#8, 0#8, 0#8, 0#8, 5#8, 0x99#8, 0xFF#8] ⟨0#8, 5#32⟩ :=
  ⟨by decide, [0x12#8], [0x99#8], 0#8, 0#8, 0#8, 0#8, 5#8, by decide, by decide, by decide, by decide⟩
theorem witness_ChunkBoundariesAreInvisible : State.reset.inputs = [] := rfl
theorem witness_DecoderEffect : Memory.load (pending 1#8).buf 0 = some 0x12#8
    ∧ Memory.load (pending 1#8).buf 1 = some 0x34#8 ∧ Memory.load (pending 1#8).buf 2 = some 0x56#8
    ∧ Memory.load (pending 1#8).buf 3 = some 0x78#8 := by decide
theorem witness_PayloadMapIsBijective : (0#8 : Byte) = 0#8 ∨ (0#8 : Byte) = 1#8 := .inl rfl
theorem witness_EndHitEmitsTheSelectedDecode :
    (∃ t, exec .endHit (pending 0#8) = .next t) ∧ ∃ u, exec (decodeType8 (pending 0#8).typ) (pending 0#8) = .next u :=
  ⟨⟨_, rfl⟩, _, rfl⟩
theorem witness_ValueReadings : (0x7F#8).toNat < 0x80 := by decide
theorem witness_LastRegistrationWins :
    (calling (.register 0 7)).inputs = [.call (.register 0 7)] ∧ (1 : Int) ≠ 0 := by decide
theorem witness_DispatchCallsTheRegisteredHandler : ∃ t, exec .endHit dispatching = .next t := ⟨_, rfl⟩
theorem witness_HandlersCannotTouchTheParser : (∃ t, step dispatching = .next t)
    ∧ ∃ u, step { dispatching with host := State.reset.host } = .next u := ⟨⟨_, rfl⟩, _, rfl⟩
theorem witness_HandlersThatDoNotReturn :
    Registry.find (hosted [(0, 10)] [⟨[.sendSimple 1#8], .throws⟩]).host.registry 0 = some 10
    ∧ [HostCall.sendSimple 1#8].all HostCall.allowed = true
    ∧ exec .endHit (hosted [(0, 10)] [⟨[.sendSimple 1#8], .throws⟩]) = .refused .handlerThrows
    ∧ exec .endHit (hosted [(0, 10)] [⟨[], .neverReturns⟩]) = .fault .handlerNeverReturns
    ∧ exec .endHit (hosted [(0, 10)] [⟨[.sendSimple 1#8] ++ .closeTransport :: [], .returns⟩])
        = .refused .handlerClosesTransport
    ∧ exec .endHit (hosted [(0, 10)] [⟨[.sendSimple 1#8] ++ .connect 9600 :: [], .returns⟩]) = .refused .secondConnection :=
  ⟨by decide, by decide, rfl, rfl, rfl, rfl⟩
theorem witness_HostCallsLeaveTheParser : ∃ t, step (calling (.connect 9600)) = .next t := ⟨_, rfl⟩
theorem witness_MeaninglessHostCallsAreRefused :
    (calling (.registerUnsync 0 1)).inputs = [.call (.registerUnsync 0 1)]
    ∧ (calling (.sendCommand .other)).inputs = [.call (.sendCommand .other)]
    ∧ ({ hosted [] [] with inputs := [.call (.connect 9600)] } : State).host.connected = true := by decide
theorem witness_ConnectStartsFromReset :
    (calling (.connect 9600)).inputs = [.call (.connect 9600)] ∧ (calling (.connect 9600)).host.connected = false
    ∧ (calling (.connect 9600)).idx = 0#3 ∧ (calling (.connect 9600)).buf = [] ∧ (calling (.connect 9600)).halted = false := by
  decide
theorem witness_ConnectStartsFromReset_event :
    (offerByte 0x99#8 State.reset).halted = false ∧ (offered Signals.byteOffer (offerByte 0x99#8 State.reset)).isSome = true
    ∧ ∃ t, step (offerByte 0x99#8 State.reset) = .next t := ⟨by decide, by decide, _, rfl⟩
theorem witness_ConnectStartsFromReset_left :
    (present ⟨true, false, false, false⟩ [] (hosted [] [])).host.connected = true
    ∧ look (fun t => t.host.connected) (step (present ⟨true, false, false, false⟩ [] (hosted [] []))) = some false := by decide
theorem witness_CommandNamesAreSimpleFrames : (CommandName.reset, 6#8) ∈ [(CommandName.stop, (0#8 : Byte)), (.right, 1#8),
    (.left, 2#8), (.shutter, 3#8), (.start, 4#8), (.pause, 5#8), (.reset, 6#8)]
    ∧ (calling (.sendCommand .reset)).inputs = [.call (.sendCommand .reset)] := by decide
theorem witness_ProgramScaling_inside : ((2147483647 * 1000 : Int)).tdiv 1000 = 2147483647
    ∧ (0 : Int).tdiv 1 = 0
    ∧ (calling (.sendProgram ⟨⟨2147483647, 1000⟩, ⟨2147483647, 1⟩⟩ ⟨⟨0, 1⟩, ⟨0, 1⟩⟩ ⟨1, 1⟩)).inputs
      = [.call (.sendProgram ⟨⟨2147483647, 1000⟩, ⟨2147483647, 1⟩⟩ ⟨⟨0, 1⟩, ⟨0, 1⟩⟩ ⟨1, 1⟩)] := by decide
/-- A count of 3.7 is sent, with some byte; every other byte of the frame is the rule's. -/
theorem witness_ProgramScaling_count : (⟨37, 10⟩ : Ratio).den ≠ 0 ∧ (⟨14, 2⟩ : Ratio).num = 7 * ((⟨14, 2⟩ : Ratio).den : Int)
    ∧ programCount ⟨14, 2⟩ = some 7#8
    ∧ look (fun t => (t.seen.sent.map List.length, t.seen.sent.map (fun f => f.take 11)))
        (step (calling (.sendProgram ⟨⟨3, 2⟩, ⟨1500, 1⟩⟩ ⟨⟨1, 4⟩, ⟨250, 1⟩⟩ ⟨37, 10⟩)))
      = some ([13], [[0xFE#8, 4#8, 9#8, 0#8, 0#8, 0x05#8, 0xDC#8, 0#8, 0#8, 0#8, 0xFA#8]]) := by decide
theorem witness_ProgramScaling_outside :
    (calling (.sendProgram ⟨⟨2147483648, 1000⟩, ⟨2147483648, 1⟩⟩ ⟨⟨-1, 1000⟩, ⟨-1, 1⟩⟩ ⟨1, 0⟩)).inputs
      = [.call (.sendProgram ⟨⟨2147483648, 1000⟩, ⟨2147483648, 1⟩⟩ ⟨⟨-1, 1000⟩, ⟨-1, 1⟩⟩ ⟨1, 0⟩)]
    ∧ 2147483647 < ((2147483648 * 1000 : Int)).tdiv 1000 ∧ ((-1) * 1000 : Int).tdiv 1000 < 0
    ∧ step (calling (.sendProgram ⟨⟨2147483648, 1000⟩, ⟨2147483648, 1⟩⟩ ⟨⟨0, 1⟩, ⟨0, 1⟩⟩ ⟨1, 1⟩))
      = .refused .programOutsideDomain
    ∧ step (calling (.sendProgram ⟨⟨0, 1⟩, ⟨0, 1⟩⟩ ⟨⟨-1, 1000⟩, ⟨-1, 1⟩⟩ ⟨1, 1⟩)) = .refused .programOutsideDomain
    ∧ step (calling (.sendProgram ⟨⟨0, 1⟩, ⟨0, 1⟩⟩ ⟨⟨0, 1⟩, ⟨0, 1⟩⟩ ⟨1, 0⟩)) = .refused .programOutsideDomain :=
  ⟨by decide, by decide, by decide, rfl, rfl, rfl⟩
theorem witness_HostCloseIsEndOfStream :
    ({ pending 0#8 with inputs := [.call .closeTransport] } : State).inputs = [.call .closeTransport]
    ∧ (pending 0#8).halted = false ∧ (parserAt 3#3 1#8 [0#8] true).halted = true := by decide
theorem witness_StepKeepsInvariant : dispatching.Inv ∧ ∃ t, step dispatching = .next t := ⟨by decide, _, rfl⟩
theorem witness_HaltedIsLeftByResetOnly_set :
    (pending 0#8).halted = false
    ∧ look (fun t => t.halted) (step (present ⟨false, false, true, false⟩ [] (pending 0#8))) = some true := by decide
theorem witness_HaltedIsLeftByResetOnly_cleared :
    look (fun t => t.halted) (step (present ⟨true, false, false, false⟩ [] (parserAt 3#3 1#8 [0#8] true))) = some false := by
  decide
theorem witness_HaltedIsLeftByResetOnly_held : (offerByte 1#8 (parserAt 3#3 1#8 [0#8] true)).halted = true
    ∧ ¬ (offerByte 1#8 (parserAt 3#3 1#8 [0#8] true)).resetsNext
    ∧ ∃ t, step (offerByte 1#8 (parserAt 3#3 1#8 [0#8] true)) = .next t :=
  ⟨by decide, (by rintro ⟨_, _, h, hr⟩; cases h; cases hr), _, rfl⟩
theorem witness_CloseRequestedAtMostOnce :
    (∃ t, Host.Core.run Sys2Proof.core 2 (present ⟨false, false, true, false⟩ [] (pending 0#8)) = .next t)
    ∧ ∀ p, Input.ports p ∈ (present ⟨false, false, true, false⟩ [] (pending 0#8)).inputs → p.rst = false :=
  ⟨⟨_, rfl⟩, fun p h => by cases h with | head => rfl | tail _ h => cases h⟩
theorem witness_TypeAndBufferWriters : ∃ t, step (offerByte 7#8 (parserAt 1#3 0#8 [] false)) = .next t := ⟨_, rfl⟩

end Sys2Proof.Tests
end

section
/-! PROOFS. What one step is for each kind of presented input: one equation each, for every proof about `step` to cite
instead of unfolding it (R48, R87, R99), and the statement that a step runs `exec` of the decoded operation. -/

namespace Sys2Proof.Machine

variable {s : State} {rest : List Input}

/-! ### The decoder on words that always decode -/

@[simp] theorem decode_step_eq_ok_iff (w : StepWord) (i : Instr) : decode (.step w) = .ok i ↔ decodeStep w = i := by
  simp [decode]

@[simp] theorem decode_type8_eq_ok_iff (t : Byte) (i : Instr) : decode (.type8 t) = .ok i ↔ decodeType8 t = i := by
  simp [decode]

/-! ### The state in which an operation is run -/

/-- With no control event the ready signal is `not halted`. -/
@[simp] theorem inReady_none (s : State) : inReady Signals.none s = !s.halted := by
  simp [inReady, Signals.none]

/-- A step without control inputs begins with quiet ports and the ready signal at `not halted`. -/
theorem beginStep_none_eq (s : State) :
    beginStep Signals.none s = { s with out := { Outputs.quiet with inReady := !s.halted } } := by
  rw [beginStep, inReady_none]

/-- With nothing presented the connection is not marked. -/
@[simp] theorem beginConnection_none (s : State) : beginConnection Signals.none s = s :=
  beginConnection_eq_self s (connectionEvent_none s)

/-! ### A step, by what is presented -/

/-- A parser step runs the operation of its step word, formed before the input is taken. -/
theorem step_of_ports {p : Signals} (h : s.inputs = .ports p :: rest) :
    step s = exec (decodeStep (stepWord p s)) (beginStep p (beginConnection p { s with inputs := rest })) := by
  rw [step, h]
  rfl

/-- With nothing presented a step runs the operation of the step word without events. -/
theorem step_of_nil (h : s.inputs = []) :
    step s = exec (decodeStep (stepWord Signals.none s)) (beginStep Signals.none s) := by
  simp only [step, h, parserStep, beginConnection_none]

/-- A run of the decoder alone runs the decode operation of the type byte. -/
theorem step_of_decoder (h : s.inputs = .decoder :: rest) :
    step s = exec (decodeType8 s.typ) (beginStep Signals.none { s with inputs := rest }) := by
  simp only [step, h]

/-- A host call runs between two parser steps. -/
theorem step_of_call {c : HostCall} (h : s.inputs = .call c :: rest) :
    step s = hostCall c (beginStep Signals.none { s with inputs := rest }) := by
  simp only [step, h]

/-! ### The calls that are an outbound operation -/

theorem hostCall_sendSimple (c : Byte) (s : State) : hostCall (.sendSimple c) s = exec (.encSimple c) s := rfl

theorem hostCall_sendProgramInt (a d : Value) (n : Int) (s : State) :
    hostCall (.sendProgramInt a d n) s = exec (.encProgram a d (countByte n)) s := rfl

end Sys2Proof.Machine

open Sys2Proof Sys2Proof.Machine

/-- Settles O8: the equation of `step` for each kind of presented input, with the decoded operation put for its word. -/
theorem stepRunsDecodedOperation : Obligations.StepRunsDecodedOperation := by
  refine ⟨fun s p rest i hin hdec => ?ports, fun s i hin hdec => ?nothing, fun s rest i hin hdec => ?decoder,
    fun s rest c hin => ?simple, fun s rest a d n hin => ?program⟩
  case ports =>
    obtain rfl := (decode_step_eq_ok_iff _ _).1 hdec
    exact step_of_ports hin
  case nothing =>
    obtain rfl := (decode_step_eq_ok_iff _ _).1 hdec
    rw [step_of_nil hin, beginStep_none_eq]
  case decoder =>
    obtain rfl := (decode_type8_eq_ok_iff _ _).1 hdec
    rw [step_of_decoder hin, beginStep_none_eq]
  case simple => rw [step_of_call hin, hostCall_sendSimple, beginStep_none_eq]
  case program => rw [step_of_call hin, hostCall_sendProgramInt, beginStep_none_eq]

end

section
/-! PROOFS. The operation a parser step runs, from its control inputs and the state: the fields of the step word (R48),
the priority of events (R99), and when a control operation is chosen. -/

namespace Sys2Proof.Machine

/-! ### The fields of the step word (R48) -/

/-- A one-bit field shows its bit at its place and nothing elsewhere. -/
theorem getElem_bitAt (v : Bool) (n i : Nat) (hi : i < 16) : (bitAt v n)[i] = (decide (i = n) && v) := by
  by_cases h : i = n
  · simp [bitAt, h]
  · have hoff : i < n ∨ i - n ≠ 0 := by omega
    rcases hoff with hlt | hne <;> simp [bitAt, *]

variable (p : Signals) (s : State)

@[simp] theorem stepWord_rst : StepWord.rst (stepWord p s) = p.rst := by
  simp [StepWord.rst, stepWord, getElem_bitAt]

@[simp] theorem stepWord_halted : StepWord.halted (stepWord p s) = s.halted := by
  simp [StepWord.halted, stepWord, getElem_bitAt]

@[simp] theorem stepWord_err : StepWord.err (stepWord p s) = p.err := by
  simp [StepWord.err, stepWord, getElem_bitAt]

@[simp] theorem stepWord_eos : StepWord.eos (stepWord p s) = p.eos := by
  simp [StepWord.eos, stepWord, getElem_bitAt]

@[simp] theorem stepWord_valid : StepWord.valid (stepWord p s) = accepts p s := by
  simp [StepWord.valid, stepWord, getElem_bitAt]

@[simp] theorem stepWord_idx : StepWord.idx (stepWord p s) = s.idx := by
  ext i hi
  have hi3 : i < 3 := hi
  have hbelow : ∀ n, 11 ≤ n → 8 + i ≠ n := fun n hn => by omega
  simp [StepWord.idx, stepWord, getElem_bitAt, hbelow, show 8 + i < 16 by omega,
    BitVec.getLsbD_eq_getElem hi]

@[simp] theorem stepWord_byte : StepWord.byte (stepWord p s) = inData p s := by
  ext i hi
  have hi8 : i < 8 := hi
  have hbelow : ∀ n, 11 ≤ n → i ≠ n := fun n hn => by omega
  simp [StepWord.byte, stepWord, getElem_bitAt, hbelow, hi8, show i < 16 by omega]

/-! ### The priority of events (R99) -/

/-- The operation of an accepted byte is no control operation. -/
theorem decodeByteOp_not_control (idx : Index) (b : Byte) :
    decodeByteOp idx b ∉ [.reset, .haltedHold, .err, .eos, .idle] := by
  unfold decodeByteOp
  split_ifs <;> simp

/-- The operation of a parser step, by the fixed priority reset, halted, error, end-of-stream, accepted byte, no
event. -/
theorem decodeStep_stepWord : decodeStep (stepWord p s) =
    if p.rst then .reset
    else if s.halted then .haltedHold
    else if p.err then .err
    else if p.eos then .eos
    else (offered p s).elim .idle (decodeByteOp s.idx) := by
  simp only [decodeStep, stepWord_rst, stepWord_halted, stepWord_err, stepWord_eos, stepWord_valid, stepWord_idx,
    stepWord_byte]
  split_ifs with hr hh he ho ha
  all_goals cases hof : offered p s <;> simp_all [accepts, inReady, inData]

/-- RESET is chosen exactly when it is presented. -/
theorem decodeStep_stepWord_eq_reset : decodeStep (stepWord p s) = .reset ↔ p.rst = true := by
  have hbyte := decodeByteOp_not_control s.idx
  rw [decodeStep_stepWord]
  split_ifs <;> cases offered p s <;> simp_all

/-- ERR or EOS is chosen exactly when an error or an end-of-stream comes without a reset in a state that is not
halted. -/
theorem decodeStep_stepWord_halts : decodeStep (stepWord p s) = .err ∨ decodeStep (stepWord p s) = .eos ↔
    p.rst = false ∧ s.halted = false ∧ (p.err = true ∨ p.eos = true) := by
  have hbyte := decodeByteOp_not_control s.idx
  rw [decodeStep_stepWord]
  split_ifs <;> cases offered p s <;> simp_all

variable {p s}

/-- While halted every step without a reset is HALTED.HOLD. -/
theorem decodeStep_stepWord_of_halted (hr : p.rst = false) (hh : s.halted = true) :
    decodeStep (stepWord p s) = .haltedHold := by
  simp [decodeStep_stepWord, hr, hh]

/-- With nothing presented a step is IDLE, or HALTED.HOLD when halted. -/
theorem decodeStep_stepWord_none : decodeStep (stepWord Signals.none s) = if s.halted then .haltedHold else .idle := by
  simp [decodeStep_stepWord, Signals.none, offered]

end Sys2Proof.Machine
end

section
/-! PROOFS. What an operation and a step can do: the state an END.HIT leaves, what each operation does to `halted`,
`typ`, `buf` and the mark of the connection, and the two kinds of step. -/

namespace Sys2Proof.Machine

variable {s t : State} {i : Instr}

/-! ### The operations -/

/-- An END.HIT that goes on re-arms the state its dispatch left: the byte consumed, the message driven and emitted, and
else only the calls recorded (left open here) and the host's side changed (R61, R74). -/
theorem execEndHit_next (h : execEndHit s = .next t) : ∃ (calls : List Call) (u : State),
    HostOnly { emit (decodedMsg s.typ s) (driveDecoder (decodedMsg s.typ s) (consume s)) with
      seen := { s.seen with trace := s.seen.trace ++ [decodedMsg s.typ s], calls := calls } } u ∧ t = rearm u := by
  obtain ⟨u, hd, ht⟩ := andThen_eq_next.1 h
  obtain ⟨-, rfl⟩ | ⟨handler, -, hu⟩ := dispatch_next hd
  · exact ⟨_, _, .refl _, (Host.Outcome.next.inj ht).symm⟩
  · exact ⟨_, u, hu, (Host.Outcome.next.inj ht).symm⟩

/-- A decode operation only drives the decoder's output. -/
theorem exec_decodeType8 (b : Byte) (s : State) : ∃ m, exec (decodeType8 b) s = .next (driveDecoder m s) := by
  unfold decodeType8
  split
  · exact ⟨_, rfl⟩
  · exact ⟨_, rfl⟩

/-- After an operation the block is halted exactly if the operation was ERR or EOS, or it was halted and the operation
was not RESET (R20). -/
theorem exec_halted (h : exec i s = .next t) :
    t.halted = true ↔ i = .err ∨ i = .eos ∨ s.halted = true ∧ i ≠ .reset := by
  cases i
  case endHit =>
    obtain ⟨_, _, ⟨_, _, _, _, _, rfl, -, -⟩, rfl⟩ := execEndHit_next h
    simp
  case reservedIdx7 => cases h
  all_goals cases h; simp

/-- No operation but RESET clears the mark of the connection (R87, log entry 14). -/
theorem exec_connected (h : exec i s = .next t) (hi : i ≠ .reset) (hs : s.host.connected = true) :
    t.host.connected = true := by
  cases i
  case reset => exact absurd rfl hi
  case endHit =>
    obtain ⟨_, _, ⟨_, _, _, _, _, rfl, -, hk⟩, rfl⟩ := execEndHit_next h
    exact hk hs
  case reservedIdx7 => cases h
  all_goals cases h; simp [hs]

/-- `typ` is written by TYPE, and becomes unspecified at END.HIT and RESET (R17). -/
theorem exec_typ (h : exec i s = .next t) : t.typ = s.typ ∨ i = .typeByte t.typ ∨ i = .endHit ∨ i = .reset := by
  cases i
  case endHit => simp
  case reservedIdx7 => cases h
  all_goals cases h; simp

/-- `buf` is written by PAY0 to PAY3, each at its address, and emptied by END.HIT and RESET (R18, R64). -/
theorem exec_buf (h : exec i s = .next t) : t.buf = s.buf ∨ (t.buf = [] ∧ (i = .endHit ∨ i = .reset))
    ∨ ∃ b, (i = .pay0 b ∧ t.buf = Memory.store s.buf 0 b) ∨ (i = .pay1 b ∧ t.buf = Memory.store s.buf 1 b)
      ∨ (i = .pay2 b ∧ t.buf = Memory.store s.buf 2 b) ∨ (i = .pay3 b ∧ t.buf = Memory.store s.buf 3 b) := by
  cases i
  case endHit =>
    obtain ⟨_, _, -, rfl⟩ := execEndHit_next h
    simp
  case reservedIdx7 => cases h
  all_goals cases h; simp

/-! ### The two kinds of step -/

/-- A step takes control inputs and runs the operation of its step word, or none are presented and it changes only the
input taken, the ports and the host's side. -/
theorem step_next (h : step s = .next t) :
    (∃ p rest, s.inputs = .ports p :: rest ∧
      exec (decodeStep (stepWord p s)) (beginStep p (beginConnection p { s with inputs := rest })) = .next t)
    ∨ (∀ p rest, s.inputs ≠ .ports p :: rest)
      ∧ ∃ inputs out, HostOnly { s with inputs := inputs, out := out } t := by
  match hin : s.inputs with
  | [] =>
    rw [step_of_nil hin, decodeStep_stepWord_none] at h
    split at h <;> cases h
    · exact .inr ⟨by simp, _, _, .refl _⟩
    · exact .inr ⟨by simp, _, _, .refl _⟩
  | .ports p :: rest => exact .inl ⟨p, rest, rfl, step_of_ports hin ▸ h⟩
  | .decoder :: rest =>
    obtain ⟨m, hm⟩ := exec_decodeType8 s.typ (beginStep Signals.none { s with inputs := rest })
    rw [step_of_decoder hin, hm] at h
    cases h
    exact .inr ⟨by simp, _, _, .refl _⟩
  | .call c :: rest =>
    rw [step_of_call hin] at h
    obtain hu | ⟨-, rfl⟩ := hostCall_next h
    · exact .inr ⟨by simp, _, _, hu⟩
    · exact .inr ⟨by simp, _, _, .refl _⟩

end Sys2Proof.Machine
end

section
/-! PROOFS. The statements about `halted`, the writers of `typ` and `buf`, the mark of the connection, and what reset
leaves (R17, R20, R25, R64, R87). -/

namespace Sys2Proof.Machine

variable {s t : State} {p : Signals} {rest : List Input}

theorem resetsNext_of_ports (hin : s.inputs = .ports p :: rest) : s.resetsNext ↔ p.rst = true := by
  simp [State.resetsNext, hin]

/-- After a parser step the block is halted exactly if no reset was presented, and it was halted or an error or an
end-of-stream came. -/
theorem step_halted_of_ports (hin : s.inputs = .ports p :: rest) (h : step s = .next t) :
    t.halted = true ↔ p.rst = false ∧ (s.halted = true ∨ p.err = true ∨ p.eos = true) := by
  have hhalt := exec_halted (step_of_ports hin ▸ h)
  rw [← or_assoc, decodeStep_stepWord_halts, Ne, decodeStep_stepWord_eq_reset] at hhalt
  rw [hhalt]
  cases p.rst <;> cases s.halted <;> simp

/-- A parser step of a halted block without a reset only takes the input and drives the ports (R83). -/
theorem step_of_halted (hin : s.inputs = .ports p :: rest) (hh : s.halted = true) (hr : p.rst = false) :
    step s = .next (beginStep p (beginConnection p { s with inputs := rest })) := by
  rw [step_of_ports hin, decodeStep_stepWord_of_halted hr hh]
  rfl

/-- An event of a connection in a parser step marks the connection as begun (R87, log entry 14). -/
theorem step_connected_of_event (hin : s.inputs = .ports p :: rest) (h : step s = .next t) (hr : p.rst = false)
    (he : s.host.connected = true ∨ connectionEvent p s = true) : t.host.connected = true := by
  refine exec_connected (step_of_ports hin ▸ h) (fun hi => ?_) ?_
  · simp [(decodeStep_stepWord_eq_reset p s).1 hi] at hr
  · exact Bool.or_eq_true_iff.2 he

end Sys2Proof.Machine

open Sys2Proof Sys2Proof.Machine

/-- Settles O49: a parser step's halt is read off its operation, and every other step leaves the parser alone. -/
theorem haltedIsLeftByResetOnly : Obligations.HaltedIsLeftByResetOnly := by
  intro s t h
  obtain ⟨p, rest, hin, -⟩ | ⟨hin, _, _, _, _, _, _, _, rfl, -, -⟩ := step_next h
  case inl =>
    have hhalt := step_halted_of_ports hin h
    rw [resetsNext_of_ports hin]
    refine ⟨fun hs => ?set, fun hr => ?cleared, fun hs ht => ?left, fun hs hr => ?held⟩
    case set => simp [hhalt, hs, hin]
    case cleared => simpa [hr] using hhalt
    case left => simpa [hs, ht] using hhalt
    case held =>
      rw [step_of_halted hin hs (by simpa using hr)] at h
      cases h
      simp [hs]
  case inr =>
    have hr : ¬ s.resetsNext := fun ⟨p, rest, hp, _⟩ => hin p rest hp
    simp [hin, hr]

/-- Settles O41: a connect in the reset state goes on, an event of a parser step marks the connection, and a step clears
the mark only by RESET, since calls of the host never do. -/
theorem connectStartsFromReset : Obligations.ConnectStartsFromReset := by
  refine ⟨fun s rest baud hin hc hidx hbuf hh => ?connect, fun s t p rest hin h hr hh he => ?event,
    fun s t h hs ht => ?left⟩
  case connect =>
    have hat : atReset s = true := by simp [atReset, hidx, hbuf, hh]
    exact ⟨_, (step_of_call hin).trans (connect_eq_next.2 ⟨hc, hat, rfl⟩)⟩
  case event => exact step_connected_of_event hin h hr (.inr (by simpa [connectionEvent, hr, hh, or_assoc] using he))
  case left =>
    obtain ⟨p, rest, hin, -⟩ | ⟨-, _, _, _, _, _, _, _, rfl, -, hk⟩ := step_next h
    · rw [resetsNext_of_ports hin]
      by_contra hr
      simp [step_connected_of_event hin h (by simpa using hr) (.inl hs)] at ht
    · simp [hk hs] at ht

/-- Settles O51: the writers of `typ` and `buf` among the operations, for a parser step; no other step touches them. -/
theorem typeAndBufferWriters : Obligations.TypeAndBufferWriters := by
  intro s t h
  obtain ⟨p, rest, hin, hex⟩ | ⟨-, _, _, _, _, _, _, _, rfl, -, -⟩ := step_next h
  · exact ⟨(exec_typ hex).imp_right fun htyp => ⟨p, rest, hin, htyp⟩,
      (exec_buf hex).imp_right fun hbuf => ⟨p, rest, hin, hbuf⟩⟩
  · exact ⟨.inl rfl, .inl rfl⟩

/-- Settles O46: each field is read off the reset state. -/
theorem resetState : Obligations.ResetState := ⟨rfl, rfl, rfl, rfl, rfl, rfl, rfl⟩

end

section
/-! PROOFS. The invariant of the reachable states: the reset state meets it, each operation that can be chosen in a state
that meets it leaves such a state, and so does every step (R19, R26, R87). -/

namespace Sys2Proof.Machine

variable {s t : State}

/-! ### What the steps between two parser steps keep -/

/-- Calls of the host keep the invariant: registering keeps the canonical form, and the mark is not cleared. -/
theorem HostOnly.inv (h : HostOnly s t) (hs : s.Inv) : t.Inv := by
  obtain ⟨_, _, _, _, _, rfl, hw, hk⟩ := h
  obtain ⟨hidx, hbytes, hbuf, hreg, hconn⟩ := hs
  exact ⟨hidx, hbytes, hbuf, hw hreg, fun hc => hconn (by cases hsc : s.host.connected <;> simp_all)⟩

/-- Marking the connection and clearing the ports keep the invariant. -/
theorem beginParserStep_inv (p : Signals) (hs : s.Inv) : (beginStep p (beginConnection p s)).Inv := by
  obtain ⟨hidx, hbytes, hbuf, hreg, hconn⟩ := hs
  exact ⟨hidx, hbytes, hbuf, hreg, fun hc => hconn (Bool.or_eq_false_iff.1 hc).1⟩

/-! ### The control operations and the re-arm -/

/-- Once the connection has begun the invariant says nothing about a halt. -/
theorem inv_of_connected (hc : s.host.connected = true) (hidx : s.idx.toNat ≤ 6)
    (hbytes : s.buf.map (fun c => c.1) = List.range (s.idx.toNat - 2)) (hbuf : Memory.wf s.buf)
    (hreg : Registry.wf s.host.registry) : s.Inv :=
  ⟨hidx, hbytes, hbuf, hreg, fun hn => by simp [hc] at hn⟩

/-- A re-armed state meets the invariant if the connection has begun or the block is not halted. -/
theorem rearm_inv (hreg : Registry.wf s.host.registry) (hc : s.host.connected = true ∨ s.halted = false) :
    (rearm s).Inv :=
  ⟨by simp, by simp, Memory.nil_wf, hreg, fun hn => ⟨rfl, hc.resolve_left (by simpa using hn)⟩⟩

theorem resetBlock_inv (hreg : Registry.wf s.host.registry) : (resetBlock s).Inv := rearm_inv hreg (.inr rfl)

/-- A halt keeps the invariant once the connection has begun. -/
theorem takeHalt_inv (c : HaltCause) (hs : s.Inv) (hc : s.host.connected = true) : (takeHalt c s).Inv := by
  obtain ⟨hidx, hbytes, hbuf, hreg, -⟩ := hs
  exact inv_of_connected (by simpa) (by simpa) (by simpa) (by simpa) (by simpa)

/-! ### The byte operations, once the connection has begun -/

/-- An END.HIT that goes on keeps the invariant: it re-arms, and the dispatch keeps the registry canonical (R61). -/
theorem execEndHit_inv (hs : s.Inv) (hc : s.host.connected = true) (h : execEndHit s = .next t) : t.Inv := by
  obtain ⟨-, -, -, hreg, -⟩ := hs
  obtain ⟨_, _, ⟨_, _, _, _, _, rfl, hw, hk⟩, rfl⟩ := execEndHit_next h
  exact rearm_inv (hw hreg) (.inl (hk hc))

/-- Storing payload byte `k` at its `idx` and moving on keeps the invariant: the bytes are then those at 0 to `k` (R57 to
R60). -/
theorem storePayload_inv {k : Fin Config.payloadLen} (b : Byte) (hs : s.Inv) (hc : s.host.connected = true)
    (hk : s.idx.toNat = k.val + 2) : (setIdx (frameIdx (k.val + 3)) (storeByte k b (consume s))).Inv := by
  obtain ⟨-, hbytes, hbuf, hreg, -⟩ := hs
  have hlt : k.val < 4 := k.isLt
  have hnext : (frameIdx (k.val + 3)).toNat = k.val + 3 := Nat.mod_eq_of_lt (show k.val + 3 < 8 by omega)
  have hstored := Memory.store_addresses (m := s.buf) (k := k) (by simpa [hk] using hbytes) b
  refine inv_of_connected hc ?_ ?_ (Memory.store_wf hbuf k b) hreg
  · rw [setIdx_idx, hnext]
    omega
  · rw [setIdx_idx, hnext]
    exact hstored

/-- The eight values the register can hold (log entry 5). -/
theorem Index.cases (n : Index) :
    n = 0#3 ∨ n = 1#3 ∨ n = 2#3 ∨ n = 3#3 ∨ n = 4#3 ∨ n = 5#3 ∨ n = 6#3 ∨ n = 7#3 := by
  revert n
  decide

/-- The operation of an accepted byte keeps the invariant: one case for each value of `idx` (R53). -/
theorem exec_decodeByteOp_inv {b : Byte} (hs : s.Inv) (hc : s.host.connected = true)
    (h : exec (decodeByteOp s.idx b) s = .next t) : t.Inv := by
  obtain ⟨hidx, hbytes, hbuf, hreg, -⟩ := id hs
  rcases Index.cases s.idx with hn | hn | hn | hn | hn | hn | hn | hn
  · -- SYNC.HIT, SYNC.SKIP
    rw [hn, decodeByteOp_zero] at h
    split at h <;> cases h
    · exact inv_of_connected hc (by simp) (by simpa [hn] using hbytes) hbuf hreg
    · exact inv_of_connected hc hidx hbytes hbuf hreg
  · -- TYPE
    rw [hn, decodeByteOp_one] at h
    cases h
    exact inv_of_connected hc (by simp) (by simpa [hn] using hbytes) hbuf hreg
  · -- PAY0
    rw [hn, decodeByteOp_two] at h
    cases h
    exact storePayload_inv (k := 0) b hs hc (by simp [hn])
  · -- PAY1
    rw [hn, decodeByteOp_three] at h
    cases h
    exact storePayload_inv (k := 1) b hs hc (by simp [hn])
  · -- PAY2
    rw [hn, decodeByteOp_four] at h
    cases h
    exact storePayload_inv (k := 2) b hs hc (by simp [hn])
  · -- PAY3
    rw [hn, decodeByteOp_five] at h
    cases h
    exact storePayload_inv (k := 3) b hs hc (by simp [hn])
  · -- END.HIT, END.ABSORB
    rw [hn, decodeByteOp_six] at h
    split at h
    · exact execEndHit_inv hs hc h
    · cases h
      exact inv_of_connected hc hidx hbytes hbuf hreg
  · -- RESERVED.IDX7
    rw [hn, decodeByteOp_seven] at h
    cases h

/-! ### A parser step -/

/-- A parser step keeps the invariant: ERR, EOS and an accepted byte are events of the connection, so their operations
find it begun. -/
theorem parserStep_inv {p : Signals} (hs : s.Inv) (h : parserStep p s = .next t) : t.Inv := by
  have hbegin := beginParserStep_inv p hs
  obtain ⟨-, -, -, hreg, -⟩ := hs
  have hconn (he : connectionEvent p s = true) : (beginStep p (beginConnection p s)).host.connected = true :=
    connected_of_event s he
  rw [parserStep, decodeStep_stepWord] at h
  split_ifs at h with hr hh he ho
  · -- RESET
    cases h
    exact resetBlock_inv hreg
  · -- HALTED.HOLD
    cases h
    exact hbegin
  · -- ERR
    cases h
    exact takeHalt_inv _ hbegin (hconn (by simp [connectionEvent, *]))
  · -- EOS
    cases h
    exact takeHalt_inv _ hbegin (hconn (by simp [connectionEvent, *]))
  · -- an accepted byte, or IDLE
    cases hof : offered p s with
    | none =>
      rw [hof] at h
      cases h
      exact hbegin
    | some b =>
      rw [hof] at h
      exact exec_decodeByteOp_inv hbegin (hconn (by simp [connectionEvent, *])) h

end Sys2Proof.Machine

open Sys2Proof Sys2Proof.Machine

/-- Settles O47: the buffer and the registry are empty, which is canonical, and no connection has begun. -/
theorem resetMeetsInvariant : Obligations.ResetMeetsInvariant :=
  ⟨by decide, rfl, reset_buf_wf, List.Pairwise.nil, fun _ => ⟨rfl, rfl⟩⟩

/-- Settles O48: the operation of a parser step keeps the invariant, and every other step changes only what the host may
change. -/
theorem stepKeepsInvariant : Obligations.StepKeepsInvariant := by
  intro s t hs h
  obtain ⟨p, rest, -, hex⟩ | ⟨-, _, _, hu⟩ := step_next h
  · exact parserStep_inv (s := { s with inputs := rest }) hs hex
  · exact hu.inv hs

end

section
/-! PROOFS. Chunks (R28): no operation looks past the first byte the Transport holds, so a later chunk may as well have
been delivered before the step (R34). -/

namespace Sys2Proof.Machine

variable {s t : State} {p : Signals} {rest : List Input} (d : List Byte)

/-! ### Delivering after an outcome -/

theorem andThen_assoc (o : Host.Outcome State Fault Refusal) (f g : State → Host.Outcome State Fault Refusal) :
    andThen (andThen o f) g = andThen o (fun s => andThen (f s) g) := by
  cases o <;> rfl

/-- A chain depends on its second link only where the first one goes on. -/
theorem andThen_congr {o : Host.Outcome State Fault Refusal} {f g : State → Host.Outcome State Fault Refusal}
    (h : ∀ s, o = .next s → f s = g s) : andThen o f = andThen o g := by
  cases o with
  | next s => exact h s rfl
  | fault _ | refused _ => rfl

/-- The chunk `d` delivered to the state an outcome goes on with; a stop stays a stop. -/
def thenDeliver (o : Host.Outcome State Fault Refusal) : Host.Outcome State Fault Refusal :=
  andThen o (fun s => .next (deliver d s))

theorem andThen_thenDeliver (o : Host.Outcome State Fault Refusal) (f : State → Host.Outcome State Fault Refusal) :
    andThen (thenDeliver d o) f = andThen o (fun s => f (deliver d s)) :=
  andThen_assoc _ _ _

/-- A chain does the same before and after a delivery if its second link does. -/
theorem andThen_thenDeliver_comm {f : State → Host.Outcome State Fault Refusal}
    (hf : ∀ s, f (deliver d s) = thenDeliver d (f s)) (o : Host.Outcome State Fault Refusal) :
    andThen (thenDeliver d o) f = thenDeliver d (andThen o f) := by
  rw [andThen_thenDeliver, funext hf]
  exact (andThen_assoc _ _ _).symm

/-! ### The host's side does not see a delivery -/

theorem hostCall_deliver (c : HostCall) (s : State) : hostCall c (deliver d s) = thenDeliver d (hostCall c s) := by
  cases c with
  | register _ _ | registerUnsync _ _ | sendSimple _ | sendProgramInt _ _ _ | closeTransport => rfl
  | sendCommand name => cases name <;> rfl
  | sendProgram step delay count =>
    simp only [hostCall, sendScaled]
    split <;> rfl
  | connect baud =>
    have hat : atReset (deliver d s) = atReset s := rfl
    simp only [hostCall, connect, hat, deliver_host]
    split <;> rfl

theorem handlerCall_deliver (c : HostCall) (s : State) :
    handlerCall c (deliver d s) = thenDeliver d (handlerCall c s) := by
  cases c with
  | closeTransport | connect _ => rfl
  | _ => simp only [handlerCall, hostCall_deliver]

theorem handlerCalls_deliver (cs : List HostCall) (s : State) :
    handlerCalls cs (deliver d s) = thenDeliver d (handlerCalls cs s) := by
  induction cs generalizing s with
  | nil => rfl
  | cons c cs ih =>
    rw [handlerCalls, handlerCall_deliver]
    exact andThen_thenDeliver_comm d ih _

theorem finishHandler_deliver (e : HandlerEnd) (s : State) :
    finishHandler e (deliver d s) = thenDeliver d (finishHandler e s) := by
  cases e <;> rfl

theorem runHandler_deliver (s : State) : runHandler (deliver d s) = thenDeliver d (runHandler s) := by
  unfold runHandler
  rw [deliver_host]
  split
  · rfl
  · rename_i r rs _
    have hcalls := handlerCalls_deliver d r.acts { s with host := { s.host with handlerRuns := rs } }
    exact (congrArg (andThen · (finishHandler r.ending)) hcalls).trans
      (andThen_thenDeliver_comm d (finishHandler_deliver d r.ending) _)

theorem dispatch_deliver (m : Msg) (s : State) : dispatch m (deliver d s) = thenDeliver d (dispatch m s) := by
  unfold dispatch
  rw [deliver_host]
  split
  · exact runHandler_deliver d (recordCall _ m.value s)
  · rfl

/-! ### An operation and a parser step with a byte at hand -/

/-- The byte consumed is the one that was there before the delivery. -/
theorem consume_deliver (hs : s.stream ≠ []) : consume (deliver d s) = deliver d (consume s) := by
  simp [consume, deliver, List.tail_append_of_ne_nil hs]

theorem execEndHit_deliver (hs : s.stream ≠ []) : execEndHit (deliver d s) = thenDeliver d (execEndHit s) := by
  have hdispatch := dispatch_deliver d (decodedMsg s.typ s)
    (emit (decodedMsg s.typ s) (driveDecoder (decodedMsg s.typ s) (consume s)))
  unfold execEndHit
  rw [consume_deliver d hs]
  exact (congrArg (andThen · (fun u => .next (rearm u))) hdispatch).trans
    (andThen_thenDeliver_comm d (fun _ => rfl) _)

/-- An operation does the same before and after a delivery, if a byte is at hand. -/
theorem exec_deliver (i : Instr) (hs : s.stream ≠ []) : exec i (deliver d s) = thenDeliver d (exec i s) := by
  have hc := consume_deliver d hs
  cases i with
  | endHit => exact execEndHit_deliver d hs
  | syncHit => exact congrArg (fun u => Host.Outcome.next (setIdx (frameIdx 1) u)) hc
  | syncSkip _ | endAbsorb _ => exact congrArg Host.Outcome.next hc
  | typeByte b => exact congrArg (fun u => Host.Outcome.next (setIdx (frameIdx 2) (setTyp b u))) hc
  | pay0 b => exact congrArg (fun u => Host.Outcome.next (setIdx (frameIdx 3) (storeByte 0 b u))) hc
  | pay1 b => exact congrArg (fun u => Host.Outcome.next (setIdx (frameIdx 4) (storeByte 1 b u))) hc
  | pay2 b => exact congrArg (fun u => Host.Outcome.next (setIdx (frameIdx 5) (storeByte 2 b u))) hc
  | pay3 b => exact congrArg (fun u => Host.Outcome.next (setIdx (frameIdx 6) (storeByte 3 b u))) hc
  | reset | haltedHold | err | eos | idle | reservedIdx7 _ | decBe32 _ | decZero _ | encSimple _
  | encProgram _ _ _ => rfl

theorem offered_deliver (hs : s.stream ≠ []) : offered p (deliver d s) = offered p s := by
  simp [offered, List.head?_append_of_ne_nil _ hs]

theorem stepWord_deliver (hs : s.stream ≠ []) : stepWord p (deliver d s) = stepWord p s := by
  have hr : inReady p (deliver d s) = inReady p s := rfl
  simp [stepWord, accepts, inData, offered_deliver d hs, hr]

theorem beginConnection_deliver (hs : s.stream ≠ []) :
    beginConnection p (deliver d s) = deliver d (beginConnection p s) := by
  simp only [beginConnection, connectionEvent, offered_deliver d hs]
  rfl

/-- A parser step with a byte at hand does the same before and after a delivery. -/
theorem parserStep_deliver (hs : s.stream ≠ []) : parserStep p (deliver d s) = thenDeliver d (parserStep p s) := by
  unfold parserStep
  rw [stepWord_deliver d hs, beginConnection_deliver d hs]
  exact exec_deliver (s := beginStep p (beginConnection p s)) d _ hs

theorem step_deliver (hin : s.inputs = .ports p :: rest) (hs : s.stream ≠ []) :
    step (deliver d s) = thenDeliver d (step s) := by
  have hnext : step s = parserStep p { s with inputs := rest } := step_of_ports hin
  have hlate : step (deliver d s) = parserStep p (deliver d { s with inputs := rest }) :=
    step_of_ports (by simp [hin])
  rw [hnext, hlate]
  exact parserStep_deliver (s := { s with inputs := rest }) d hs

/-! ### Runs over offered bytes -/

/-- An operation takes no input, and consumes one byte or none. -/
theorem exec_inputs_stream {i : Instr} (h : exec i s = .next t) :
    t.inputs = s.inputs ∧ (t.stream = s.stream ∨ t.stream = s.stream.tail) := by
  cases i
  case endHit =>
    obtain ⟨_, _, ⟨_, _, _, _, _, rfl, -, -⟩, rfl⟩ := execEndHit_next h
    simp
  case reservedIdx7 => cases h
  all_goals cases h; simp

/-- What is presented is `n` offers of a byte, and the stream holds a byte for each of them. -/
def Offers (n : Nat) (s : State) : Prop :=
  s.inputs = List.replicate n (.ports Signals.byteOffer) ∧ n ≤ s.stream.length

theorem offers_deliver (hin : s.inputs = []) : Offers d.length (deliver d s) := by
  simp [Offers, hin]

/-- A step takes one offer and at most one byte. -/
theorem Offers.of_step {n : Nat} (ho : Offers (n + 1) s) (h : step s = .next t) : Offers n t := by
  obtain ⟨hin, hlen⟩ := ho
  obtain ⟨htin, htst⟩ := exec_inputs_stream (step_of_ports hin ▸ h)
  refine ⟨htin, ?_⟩
  rcases htst with htst | htst <;> simp [htst] <;> omega

/-- The host's run of `n` steps, with the machine's own types. -/
def runSteps (n : Nat) (s : State) : Host.Outcome State Fault Refusal := Host.Core.run core n s

theorem runSteps_zero (s : State) : runSteps 0 s = .next s := rfl

/-- The host's run of one more step, for any machine: a step, then the run from there. -/
theorem coreRun_succ (M : Host.Core) (n : Nat) (s : M.State) :
    M.run (n + 1) s = match M.step s with
      | .next u => M.run n u
      | .fault r => .fault r
      | .refused r => .refused r := rfl

theorem runSteps_succ (n : Nat) (s : State) : runSteps (n + 1) s = andThen (step s) (runSteps n) := by
  refine (coreRun_succ core n s).trans ?_
  show _ = andThen (core.step s) (runSteps n)
  cases core.step s <;> rfl

theorem runSteps_add (m n : Nat) (s : State) : runSteps (m + n) s = andThen (runSteps m s) (runSteps n) := by
  induction m generalizing s with
  | zero => rw [Nat.zero_add, runSteps_zero, andThen_next]
  | succ m ih => rw [Nat.add_right_comm, runSteps_succ, runSteps_succ, andThen_assoc, funext ih]

/-- A run over the bytes offered takes every offer. -/
theorem Offers.inputs_of_run {n : Nat} (ho : Offers n s) (h : runSteps n s = .next t) : t.inputs = [] := by
  induction n generalizing s with
  | zero =>
    cases h
    exact ho.1
  | succ n ih =>
    rw [runSteps_succ] at h
    obtain ⟨u, hu, ht⟩ := andThen_eq_next.1 h
    exact ih (ho.of_step hu) ht

/-- A run over the bytes offered does the same before and after a delivery. -/
theorem Offers.run_deliver {n : Nat} (ho : Offers n s) :
    runSteps n (deliver d s) = thenDeliver d (runSteps n s) := by
  induction n generalizing s with
  | zero => rfl
  | succ n ih =>
    have hbyte : s.stream ≠ [] := List.ne_nil_of_length_pos (Nat.zero_lt_of_lt ho.2)
    calc runSteps (n + 1) (deliver d s)
        = andThen (thenDeliver d (step s)) (runSteps n) := by rw [runSteps_succ, step_deliver d ho.1 hbyte]
      _ = andThen (step s) (fun u => runSteps n (deliver d u)) := andThen_thenDeliver ..
      _ = andThen (step s) (fun u => thenDeliver d (runSteps n u)) := andThen_congr fun u hu => ih (ho.of_step hu)
      _ = thenDeliver d (andThen (step s) (runSteps n)) := (andThen_assoc ..).symm
      _ = thenDeliver d (runSteps (n + 1) s) := by rw [runSteps_succ]

/-! ### Chunk after chunk -/

/-- Two deliveries in a row are one delivery of the concatenation. -/
theorem deliver_append (c d : List Byte) (s : State) : deliver (c ++ d) s = deliver d (deliver c s) := by
  simp [deliver]

/-- Delivering two chunks at once, or the second when the first has been processed, is the same run (R28). -/
theorem run_deliver_append (c d : List Byte) (hin : s.inputs = []) :
    runSteps (c ++ d).length (deliver (c ++ d) s)
      = andThen (runSteps c.length (deliver c s)) (fun t => runSteps d.length (deliver d t)) := by
  rw [List.length_append, runSteps_add, deliver_append, (offers_deliver c hin).run_deliver d, andThen_thenDeliver]

theorem runChunks_eq_run (chunks : List (List Byte)) (hin : s.inputs = []) :
    runChunks chunks s = runSteps chunks.flatten.length (deliver chunks.flatten s) := by
  induction chunks generalizing s with
  | nil => simp [runChunks, runSteps_zero, deliver]
  | cons c cs ih =>
    rw [List.flatten_cons, run_deliver_append c _ hin]
    exact andThen_congr fun t ht => ih ((offers_deliver c hin).inputs_of_run ht)

end Sys2Proof.Machine

open Sys2Proof Sys2Proof.Machine

/-- Settles O28, by induction over the chunks: the run over the first chunk does the same if the others are delivered
before it, and it takes every offer. -/
theorem chunkBoundariesAreInvisible : Obligations.ChunkBoundariesAreInvisible :=
  fun chunks _ hin => runChunks_eq_run chunks hin

end

section
/-! PROOFS. Host calls between two parser steps (R38, R73, R85, R87, R88). -/

open Sys2Proof Sys2Proof.Machine

/-- Settles O39: a host call that goes on changes the host's side only, or presents the end-of-stream of a close. -/
theorem hostCallsLeaveTheParser : Obligations.HostCallsLeaveTheParser := by
  intro s t c rest hin h
  rw [step_of_call hin] at h
  obtain ⟨_, _, _, _, _, rfl, -, -⟩ | ⟨-, rfl⟩ := hostCall_next h
  · exact ⟨rfl, rfl, rfl, rfl, rfl, rfl, rfl, rfl, rfl, rfl, rfl, rfl⟩
  · exact ⟨rfl, rfl, rfl, rfl, rfl, rfl, rfl, rfl, rfl, rfl, rfl, rfl⟩

end

section
/-! PROOFS. The encodings: a step word and an outbound word as their fields side by side, the decoder field by field, and
how encode and decode agree (R48 to R51, R89, R91). -/

namespace Sys2Proof

/-! ### The step word as three fields -/

/-- `W[15:11]`: the control inputs, `halted` and `valid` (R48). -/
def StepWord.control (w : StepWord) : BitVec 5 := w.extractLsb' 11 5

/-- The step word of three fields. -/
def StepWord.ofFields (c : BitVec 5) (n : Index) (b : Byte) : StepWord := c ++ n ++ b

section
variable (c : BitVec 5) (n : Index) (b : Byte)

@[simp] theorem ofFields_control : (StepWord.ofFields c n b).control = c :=
  (BitVec.extractLsb'_append_eq_of_le (w := 8) (by decide)).trans BitVec.extractLsb'_append_eq_left

@[simp] theorem ofFields_idx : (StepWord.ofFields c n b).idx = n :=
  (BitVec.extractLsb'_append_eq_of_le (w := 8) (by decide)).trans BitVec.extractLsb'_append_eq_right

@[simp] theorem ofFields_byte : (StepWord.ofFields c n b).byte = b := BitVec.extractLsb'_append_eq_right

/-- A byte step's word says in its control field that a byte is accepted, and nothing else (R49). -/
theorem encodeByteStep_eq_ofFields : encodeByteStep n b = StepWord.ofFields 1#5 n b :=
  BitVec.setWidth_append_append_eq_shiftLeft_setWidth_or.symm.trans (BitVec.setWidth_eq (StepWord.ofFields 1#5 n b))

end

/-- Every step word is the word of its fields. -/
theorem ofFields_fields (w : StepWord) : StepWord.ofFields w.control w.idx w.byte = w := by
  have hupper : w.control ++ w.idx = w.extractLsb' 8 8 := BitVec.extractLsb'_append_extractLsb'_eq_extractLsb' rfl
  rw [StepWord.ofFields, hupper]
  exact BitVec.extractLsb'_append_extractLsb' (w := 8) (len := 8)

/-- Step words are equal exactly when their fields are. -/
theorem stepWord_eq_iff_fields {v w : StepWord} :
    v = w ↔ v.control = w.control ∧ v.idx = w.idx ∧ v.byte = w.byte := by
  refine ⟨fun h => by simp [h], fun ⟨hc, hi, hb⟩ => ?_⟩
  rw [← ofFields_fields v, ← ofFields_fields w, hc, hi, hb]

/-- A word whose control field is a byte step's is the word of a byte step. -/
theorem encodeByteStep_of_control {w : StepWord} (h : w.control = 1#5) : encodeByteStep w.idx w.byte = w := by
  rw [encodeByteStep_eq_ofFields, ← h, ofFields_fields]

/-! ### The control field -/

section
variable (w : StepWord)

theorem rst_eq_control : w.rst = w.control.getLsbD 4 := by simp [StepWord.rst, StepWord.control]
theorem halted_eq_control : w.halted = w.control.getLsbD 3 := by simp [StepWord.halted, StepWord.control]
theorem err_eq_control : w.err = w.control.getLsbD 2 := by simp [StepWord.err, StepWord.control]
theorem eos_eq_control : w.eos = w.control.getLsbD 1 := by simp [StepWord.eos, StepWord.control]
theorem valid_eq_control : w.valid = w.control.getLsbD 0 := by simp [StepWord.valid, StepWord.control]

/-- The control field is a byte step's when a byte is accepted and there is no control event. -/
theorem control_eq_one_iff : w.control = 1#5 ↔
    w.rst = false ∧ w.halted = false ∧ w.err = false ∧ w.eos = false ∧ w.valid = true := by
  rw [rst_eq_control, halted_eq_control, err_eq_control, eos_eq_control, valid_eq_control]
  generalize w.control = c
  revert c
  decide

end

/-- The control operation that a control field selects, by the priority of R99; none for a byte step. -/
def controlOp (c : BitVec 5) : Option Instr :=
  if c.getLsbD 4 then some .reset
  else if c.getLsbD 3 then some .haltedHold
  else if c.getLsbD 2 then some .err
  else if c.getLsbD 1 then some .eos
  else if c.getLsbD 0 then none
  else some .idle

theorem controlOp_eq_none_iff (c : BitVec 5) : controlOp c = none ↔ c = 1#5 := by
  revert c
  decide

/-- The decoder looks at the control field first, and at `idx` and the byte only in a byte step. -/
theorem decodeStep_eq_getD (w : StepWord) :
    decodeStep w = (controlOp w.control).getD (decodeByteOp w.idx w.byte) := by
  simp only [decodeStep, controlOp, rst_eq_control, halted_eq_control, err_eq_control, eos_eq_control,
    valid_eq_control]
  split_ifs <;> rfl

theorem decodeStep_of_control {w : StepWord} (h : w.control = 1#5) : decodeStep w = decodeByteOp w.idx w.byte := by
  rw [decodeStep_eq_getD, (controlOp_eq_none_iff _).2 h, Option.getD_none]

@[simp] theorem decodeStep_encodeByteStep (n : Index) (b : Byte) :
    decodeStep (encodeByteStep n b) = decodeByteOp n b := by
  simp [encodeByteStep_eq_ofFields, decodeStep_of_control]

/-! ### The operation of an accepted byte -/

/-- The operation of an accepted byte is encoded as the word of its byte step, and its operand is in its pattern. -/
theorem decodeByteOp_encode_wellFormed (n : Index) (b : Byte) :
    encode (decodeByteOp n b) = .step (encodeByteStep n b) ∧ (decodeByteOp n b).wellFormed = true := by
  rcases Machine.Index.cases n with rfl | rfl | rfl | rfl | rfl | rfl | rfl | rfl
  case inl => -- SYNC.HIT, SYNC.SKIP
    rw [decodeByteOp_zero]
    split <;> simp [encode, Instr.wellFormed, *]
  case inr.inr.inr.inr.inr.inr.inl => -- END.HIT, END.ABSORB
    rw [decodeByteOp_six]
    split <;> simp [encode, Instr.wellFormed, *]
  all_goals exact ⟨rfl, rfl⟩

theorem encode_decodeByteOp (n : Index) (b : Byte) : encode (decodeByteOp n b) = .step (encodeByteStep n b) :=
  (decodeByteOp_encode_wellFormed n b).1

theorem decodeByteOp_wellFormed (n : Index) (b : Byte) : (decodeByteOp n b).wellFormed = true :=
  (decodeByteOp_encode_wellFormed n b).2

theorem decodeStep_wellFormed (w : StepWord) : (decodeStep w).wellFormed = true := by
  unfold decodeStep
  split_ifs
  · rfl
  · rfl
  · rfl
  · rfl
  · exact decodeByteOp_wellFormed _ _
  · rfl

/-! ### The decode operation of a type byte (R50) -/

theorem decodeType8_of_known {t : Byte} (h : t = 0#8 ∨ t = 1#8) : decodeType8 t = .decBe32 t := if_pos h

theorem decodeType8_of_unknown {t : Byte} (h : ¬ (t = 0#8 ∨ t = 1#8)) : decodeType8 t = .decZero t := if_neg h

theorem encode_decodeType8 (t : Byte) : encode (decodeType8 t) = .type8 t := by
  unfold decodeType8
  split <;> rfl

theorem decodeType8_wellFormed (t : Byte) : (decodeType8 t).wellFormed = true := by
  by_cases h : t = 0#8 ∨ t = 1#8
  · simpa [decodeType8_of_known h, Instr.wellFormed] using h
  · simpa [decodeType8_of_unknown h, Instr.wellFormed] using h

/-! ### The outbound words as their fields (R89, R91) -/

/-- A field of a word is two words side by side exactly when its upper and its lower part are the two. -/
theorem extractLsb'_eq_append_iff {k m n : Nat} {w : BitVec k} (s : Nat) (x : BitVec m) (y : BitVec n) :
    w.extractLsb' s (m + n) = x ++ y ↔ w.extractLsb' (s + n) m = x ∧ w.extractLsb' s n = y := by
  rw [← BitVec.extractLsb'_append_extractLsb'_eq_extractLsb' rfl]
  refine ⟨fun h => ⟨?_, ?_⟩, fun ⟨hx, hy⟩ => by rw [hx, hy]⟩
  · simpa [BitVec.extractLsb'_append_eq_left] using congrArg (BitVec.extractLsb' n m) h
  · simpa [BitVec.extractLsb'_append_eq_right] using congrArg (BitVec.extractLsb' 0 n) h

/-- A four-byte word is four bytes side by side. -/
theorem eq_simpleWord_iff {w : BitVec 32} {a b c d : Byte} : w = a ++ b ++ c ++ d ↔
    w.extractLsb' 24 8 = a ∧ w.extractLsb' 16 8 = b ∧ w.extractLsb' 8 8 = c ∧ w.extractLsb' 0 8 = d := by
  have hd : w.extractLsb' 0 32 = a ++ b ++ c ++ d ↔ w.extractLsb' 8 24 = a ++ b ++ c ∧ w.extractLsb' 0 8 = d :=
    extractLsb'_eq_append_iff 0 _ d
  have hc : w.extractLsb' 8 24 = a ++ b ++ c ↔ w.extractLsb' 16 16 = a ++ b ∧ w.extractLsb' 8 8 = c :=
    extractLsb'_eq_append_iff 8 _ c
  have hb : w.extractLsb' 16 16 = a ++ b ↔ w.extractLsb' 24 8 = a ∧ w.extractLsb' 16 8 = b :=
    extractLsb'_eq_append_iff 16 a b
  rw [BitVec.extractLsb'_eq_self] at hd
  rw [hd, hc, hb, and_assoc, and_assoc]

/-- A thirteen-byte word is the seven fields of a program frame side by side. -/
theorem eq_programWord_iff {w : BitVec 104} {a b c : Byte} {s d : Value} {n e : Byte} :
    w = a ++ b ++ c ++ s ++ d ++ n ++ e ↔
      w.extractLsb' 96 8 = a ∧ w.extractLsb' 88 8 = b ∧ w.extractLsb' 80 8 = c ∧ w.extractLsb' 48 32 = s
        ∧ w.extractLsb' 16 32 = d ∧ w.extractLsb' 8 8 = n ∧ w.extractLsb' 0 8 = e := by
  have he : w.extractLsb' 0 104 = a ++ b ++ c ++ s ++ d ++ n ++ e ↔
      w.extractLsb' 8 96 = a ++ b ++ c ++ s ++ d ++ n ∧ w.extractLsb' 0 8 = e := extractLsb'_eq_append_iff 0 _ e
  have hn : w.extractLsb' 8 96 = a ++ b ++ c ++ s ++ d ++ n ↔
      w.extractLsb' 16 88 = a ++ b ++ c ++ s ++ d ∧ w.extractLsb' 8 8 = n := extractLsb'_eq_append_iff 8 _ n
  have hd : w.extractLsb' 16 88 = a ++ b ++ c ++ s ++ d ↔
      w.extractLsb' 48 56 = a ++ b ++ c ++ s ∧ w.extractLsb' 16 32 = d := extractLsb'_eq_append_iff 16 _ d
  have hs : w.extractLsb' 48 56 = a ++ b ++ c ++ s ↔
      w.extractLsb' 80 24 = a ++ b ++ c ∧ w.extractLsb' 48 32 = s := extractLsb'_eq_append_iff 48 _ s
  have hc : w.extractLsb' 80 24 = a ++ b ++ c ↔ w.extractLsb' 88 16 = a ++ b ∧ w.extractLsb' 80 8 = c :=
    extractLsb'_eq_append_iff 80 _ c
  have hb : w.extractLsb' 88 16 = a ++ b ↔ w.extractLsb' 96 8 = a ∧ w.extractLsb' 88 8 = b :=
    extractLsb'_eq_append_iff 88 a b
  rw [BitVec.extractLsb'_eq_self] at he
  simp only [he, hn, hd, hs, hc, hb, and_assoc]

/-- A four-byte word decodes exactly when it is a simple frame, to the command in it. -/
theorem decodeTx4_eq_ok_iff {w : BitVec 32} {i : Instr} :
    decodeTx4 w = .ok i ↔ ∃ c, i = .encSimple c ∧ encode i = .tx4 w := by
  constructor
  · intro h
    unfold decodeTx4 at h
    split at h
    case isTrue hw =>
      obtain ⟨hstart, hlength, hend⟩ := hw
      obtain rfl := Except.ok.inj h
      exact ⟨_, rfl, congrArg OpWord.tx4 (eq_simpleWord_iff.2 ⟨hstart, rfl, hlength, hend⟩).symm⟩
    case isFalse => cases h
  · rintro ⟨c, rfl, hw⟩
    obtain ⟨hstart, hcode, hlength, hend⟩ := eq_simpleWord_iff.1 (OpWord.tx4.inj hw).symm
    simp [decodeTx4, hstart, hcode, hlength, hend]

/-- A thirteen-byte word decodes exactly when it is a program frame, to the command in it. -/
theorem decodeTx13_eq_ok_iff {w : BitVec 104} {i : Instr} :
    decodeTx13 w = .ok i ↔ ∃ s d n, i = .encProgram s d n ∧ encode i = .tx13 w := by
  constructor
  · intro h
    unfold decodeTx13 at h
    split at h
    case isTrue hw =>
      obtain ⟨hstart, hcode, hlength, hend⟩ := hw
      obtain rfl := Except.ok.inj h
      exact ⟨_, _, _, rfl,
        congrArg OpWord.tx13 (eq_programWord_iff.2 ⟨hstart, hcode, hlength, rfl, rfl, rfl, hend⟩).symm⟩
    case isFalse => cases h
  · rintro ⟨s, d, n, rfl, hw⟩
    obtain ⟨hstart, hcode, hlength, hs, hd, hn, hend⟩ := eq_programWord_iff.1 (OpWord.tx13.inj hw).symm
    simp [decodeTx13, hstart, hcode, hlength, hs, hd, hn, hend]

end Sys2Proof

open Sys2Proof Sys2Proof.Machine

/-- Settles O2, by the operations: a byte step's word decodes by `idx` and the byte, a type selector by the byte, and an
outbound word exactly to the frame it is. -/
theorem decodeOfEncodeIsIdentity : Obligations.DecodeOfEncodeIsIdentity := by
  intro i hi
  cases i with
  | reset | haltedHold | err | eos | idle => rfl
  | syncHit | typeByte _ | pay0 _ | pay1 _ | pay2 _ | pay3 _ | endHit | reservedIdx7 _ => simp [encode]
  | syncSkip _ | endAbsorb _ => simpa [encode, Instr.wellFormed] using hi
  | decBe32 t => exact (decode_type8_eq_ok_iff _ _).2 (decodeType8_of_known (by simpa [Instr.wellFormed] using hi))
  | decZero t => exact (decode_type8_eq_ok_iff _ _).2 (decodeType8_of_unknown (by simpa [Instr.wellFormed] using hi))
  | encSimple c => exact decodeTx4_eq_ok_iff.2 ⟨c, rfl, rfl⟩
  | encProgram s d n => exact decodeTx13_eq_ok_iff.2 ⟨s, d, n, rfl, rfl⟩

/-- Settles O3: an outbound word that decodes is a frame, a type selector is its byte, and a byte step's word is its `idx`
and byte. -/
theorem encodeOfDecodeIsIdentity : Obligations.EncodeOfDecodeIsIdentity := by
  refine ⟨fun w i h => ?simple, fun w i h => ?program, encode_decodeType8, fun w h => ?byteStep⟩
  case simple =>
    obtain ⟨_, -, hw⟩ := decodeTx4_eq_ok_iff.1 h
    exact hw
  case program =>
    obtain ⟨_, _, _, -, hw⟩ := decodeTx13_eq_ok_iff.1 h
    exact hw
  case byteStep => rw [decodeStep_of_control h, encode_decodeByteOp, encodeByteStep_of_control h]

/-- Settles O4, by the four formats. -/
theorem decodedTermsAreWellFormed : Obligations.DecodedTermsAreWellFormed := by
  intro w i h
  cases w with
  | step w =>
    obtain rfl := (decode_step_eq_ok_iff w i).1 h
    exact decodeStep_wellFormed w
  | type8 t =>
    obtain rfl := (decode_type8_eq_ok_iff t i).1 h
    exact decodeType8_wellFormed t
  | tx4 w =>
    obtain ⟨_, rfl, -⟩ := decodeTx4_eq_ok_iff.1 h
    rfl
  | tx13 w =>
    obtain ⟨_, _, _, rfl, -⟩ := decodeTx13_eq_ok_iff.1 h
    rfl

/-- Settles O1: each word is decoded as it stands. -/
theorem specWordsDecode : Obligations.SpecWordsDecode :=
  ⟨rfl, rfl, rfl, rfl, rfl, rfl, rfl, rfl, rfl, rfl, rfl, rfl, rfl, rfl, rfl, rfl, rfl, rfl, rfl⟩

end

section
/-! PROOFS. The opcode maps (R49, R50): each row of the step map asks for a row of the control field, or for `idx` and a
row of the byte, so that the rows a word matches are found field by field. -/

namespace Sys2Proof

/-! ### The rows of the step map as rows of the fields -/

/-- The operations of those rows of a list that a word matches. -/
def opsHit {n : Nat} (rows : List (OpRow n)) (w : BitVec n) : List Op :=
  (rows.filter (fun r => r.hits w)).map (fun r => r.op)

theorem opsHit_append {n : Nat} (rows rows' : List (OpRow n)) (w : BitVec n) :
    opsHit (rows ++ rows') w = opsHit rows w ++ opsHit rows' w := by
  simp [opsHit]

/-- The step row that asks for a row of the control field and nothing else. -/
def controlRow (r : OpRow 5) : OpRow 16 :=
  ⟨StepWord.ofFields r.mask 0#3 0#8, StepWord.ofFields r.pat 0#3 0#8, r.op⟩

/-- The step row that asks for a byte step at `idx` `n` and a row of its byte. -/
def byteRow (n : Index) (r : OpRow 8) : OpRow 16 :=
  ⟨StepWord.ofFields (BitVec.allOnes 5) (BitVec.allOnes 3) r.mask, StepWord.ofFields 1#5 n r.pat, r.op⟩

@[simp] theorem controlRow_op (r : OpRow 5) : (controlRow r).op = r.op := rfl
@[simp] theorem byteRow_op (n : Index) (r : OpRow 8) : (byteRow n r).op = r.op := rfl

/-- A step word matches a row when each of its fields matches the row's. -/
theorem hits_iff_fields {r : OpRow 16} {w : StepWord} :
    r.hits w = true ↔ w.control &&& StepWord.control r.mask = StepWord.control r.pat
      ∧ w.idx &&& StepWord.idx r.mask = StepWord.idx r.pat
      ∧ w.byte &&& StepWord.byte r.mask = StepWord.byte r.pat := by
  simp only [OpRow.hits, beq_iff_eq, stepWord_eq_iff_fields, StepWord.control, StepWord.idx, StepWord.byte,
    BitVec.extractLsb'_and]

theorem controlRow_hits (r : OpRow 5) (w : StepWord) : (controlRow r).hits w = r.hits w.control := by
  rw [Bool.eq_iff_iff, hits_iff_fields]
  simp [controlRow, OpRow.hits]

theorem byteRow_hits (n : Index) (r : OpRow 8) (w : StepWord) :
    (byteRow n r).hits w = (decide (w.control = 1#5 ∧ w.idx = n) && r.hits w.byte) := by
  rw [Bool.eq_iff_iff, hits_iff_fields]
  simp only [byteRow, OpRow.hits, ofFields_control, ofFields_idx, ofFields_byte, BitVec.and_allOnes, Bool.and_eq_true,
    decide_eq_true_eq, beq_iff_eq, and_assoc]

theorem opsHit_map_controlRow (rows : List (OpRow 5)) (w : StepWord) :
    opsHit (rows.map controlRow) w = opsHit rows w.control := by
  simp only [opsHit, List.filter_map, List.map_map, Function.comp_def, controlRow_hits, controlRow_op]

theorem opsHit_map_byteRow (n : Index) (rows : List (OpRow 8)) (w : StepWord) :
    opsHit (rows.map (byteRow n)) w = if w.control = 1#5 ∧ w.idx = n then opsHit rows w.byte else [] := by
  simp only [opsHit, List.filter_map, List.map_map, Function.comp_def, byteRow_hits]
  split <;> simp [*]

/-- The rows of the control field: one for each control operation. -/
def controlRows : List (OpRow 5) :=
  [⟨0b10000#5, 0b10000#5, .reset⟩, ⟨0b11000#5, 0b01000#5, .haltedHold⟩, ⟨0b11100#5, 0b00100#5, .err⟩,
   ⟨0b11110#5, 0b00010#5, .eos⟩, ⟨0b11111#5, 0b00000#5, .idle⟩]

/-- The one row of "any byte". -/
def anyByteRow (op : Op) : List (OpRow 8) := [⟨0#8, 0#8, op⟩]
/-- The one row of "the byte `v`". -/
def exactByteRow (v : Byte) (op : Op) : List (OpRow 8) := [⟨BitVec.allOnes 8, v, op⟩]
/-- The rows of "any byte but `v`". -/
def butByteRows (v : Byte) (op : Op) : List (OpRow 8) := (List.range 8).map fun k => ⟨topBits k, butPat v k, op⟩

theorem butRows_eq (n : Index) (v : Byte) (op : Op) : butRows n v op = (butByteRows v op).map (byteRow n) := by
  have hmask (m : Byte) : 0xFF00#16 ||| m.setWidth 16 = StepWord.ofFields (BitVec.allOnes 5) (BitVec.allOnes 3) m := by
    rw [StepWord.ofFields, ← BitVec.setWidth_eq (BitVec.allOnes 5 ++ BitVec.allOnes 3 ++ m),
      BitVec.setWidth_append_append_eq_shiftLeft_setWidth_or]
    rfl
  simp only [butRows, butByteRows, hmask, encodeByteStep_eq_ofFields, List.map_map, Function.comp_def, byteRow]

/-- The rows of the operations of an accepted byte, by `idx` and byte. -/
def byteStepRows : List (OpRow 16) :=
  (exactByteRow 0xFE#8 .syncHit).map (byteRow 0#3) ++ (anyByteRow .typeByte).map (byteRow 1#3)
    ++ (anyByteRow .pay0).map (byteRow 2#3) ++ (anyByteRow .pay1).map (byteRow 3#3)
    ++ (anyByteRow .pay2).map (byteRow 4#3) ++ (anyByteRow .pay3).map (byteRow 5#3)
    ++ (exactByteRow 0xFF#8 .endHit).map (byteRow 6#3) ++ (anyByteRow .reservedIdx7).map (byteRow 7#3)
    ++ (butByteRows 0xFE#8 .syncSkip).map (byteRow 0#3) ++ (butByteRows 0xFF#8 .endAbsorb).map (byteRow 6#3)

theorem stepRows_eq : stepRows = controlRows.map controlRow ++ byteStepRows := by
  rw [stepRows, butRows_eq, butRows_eq]
  rfl

/-! ### The rows of a field that a value matches -/

theorem opsHit_controlRows (c : BitVec 5) : opsHit controlRows c = ((controlOp c).map Instr.op).toList := by
  revert c
  decide

@[simp] theorem opsHit_anyByteRow (op : Op) (b : Byte) : opsHit (anyByteRow op) b = [op] := by
  simp [opsHit, anyByteRow, OpRow.hits]

@[simp] theorem opsHit_exactByteRow (v : Byte) (op : Op) (b : Byte) :
    opsHit (exactByteRow v op) b = if b = v then [op] else [] := by
  simp only [opsHit, exactByteRow, OpRow.hits, BitVec.and_allOnes, List.filter_singleton, Bool.cond_eq_ite,
    beq_iff_eq]
  split <;> rfl

/-- Of the patterns of "any byte but zero" one matches each byte but zero: that of the byte's highest bit. -/
theorem length_filter_butPat_zero (d : Byte) :
    ((List.range 8).filter fun k => d &&& topBits k == butPat 0#8 k).length = if d = 0#8 then 0 else 1 := by
  revert d
  decide

theorem xor_and_distrib (x y m : Byte) : (x ^^^ y) &&& m = (x &&& m) ^^^ (y &&& m) := by
  ext i
  simp [Bool.and_xor_distrib_right]

/-- A byte matches a pattern of "any byte but `v`" when its difference from `v` matches that of "any byte but zero". -/
theorem and_topBits_eq_butPat_iff (v b : Byte) (k : Nat) :
    b &&& topBits k = butPat v k ↔ (b ^^^ v) &&& topBits k = butPat 0#8 k := by
  rw [← BitVec.xor_eq_zero_iff, ← BitVec.xor_eq_zero_iff (x := (b ^^^ v) &&& topBits k)]
  simp only [butPat, ← xor_and_distrib, BitVec.zero_xor, BitVec.xor_assoc]

@[simp] theorem opsHit_butByteRows (v : Byte) (op : Op) (b : Byte) :
    opsHit (butByteRows v op) b = if b = v then [] else [op] := by
  have hlength := length_filter_butPat_zero (b ^^^ v)
  simp only [BitVec.xor_eq_zero_iff, Bool.beq_eq_decide_eq, ← and_topBits_eq_butPat_iff] at hlength
  simp only [opsHit, butByteRows, List.filter_map, List.map_map, Function.comp_def, OpRow.hits, List.map_const',
    Bool.beq_eq_decide_eq, hlength]
  split <;> rfl

/-! ### The row a step word matches -/

/-- Of the rows of the byte steps a byte step's word matches one, that of the operation of `idx` and the byte; any other
word matches none. -/
theorem opsHit_byteStepRows (w : StepWord) :
    opsHit byteStepRows w = if w.control = 1#5 then [(decodeByteOp w.idx w.byte).op] else [] := by
  simp only [byteStepRows, opsHit_append, opsHit_map_byteRow, opsHit_anyByteRow, opsHit_exactByteRow,
    opsHit_butByteRows]
  by_cases h : w.control = 1#5
  · rcases Machine.Index.cases w.idx with hn | hn | hn | hn | hn | hn | hn | hn
    case inl => -- SYNC.HIT, SYNC.SKIP
      simp only [h, hn, decodeByteOp_zero]
      by_cases hb : w.byte = 0xFE#8 <;> simp [hb, Instr.op]
    case inr.inr.inr.inr.inr.inr.inl => -- END.HIT, END.ABSORB
      simp only [h, hn, decodeByteOp_six]
      by_cases hb : w.byte = 0xFF#8 <;> simp [hb, Instr.op]
    all_goals simp [h, hn, Instr.op]
  · simp [h]

/-- A step word matches one row, that of the operation it decodes to: a row of the control field, or in a byte step a row
of `idx` and the byte. -/
theorem opsHit_stepRows (w : StepWord) : opsHit stepRows w = [(decodeStep w).op] := by
  rw [stepRows_eq, opsHit_append, opsHit_map_controlRow, opsHit_controlRows, opsHit_byteStepRows, decodeStep_eq_getD]
  cases hop : controlOp w.control with
  | none => simp [(controlOp_eq_none_iff _).1 hop]
  | some i =>
    have hc : w.control ≠ 1#5 := fun h => by simp [(controlOp_eq_none_iff _).2 h] at hop
    simp [hc]

/-- A type byte matches one row, that of the decode operation it selects; the 256 bytes are tried. -/
theorem opsHit_type8Rows (t : Byte) : opsHit type8Rows t = [(decodeType8 t).op] := by
  revert t
  decide

end Sys2Proof

open Sys2Proof Sys2Proof.Machine

/-- Settles O5: the rows are found field by field; a byte step's word has its fields in place. -/
theorem stepOpcodeMapIsExact : Obligations.StepOpcodeMapIsExact := by
  refine ⟨opsHit_stepRows, fun p s b hb hr hh he ho => ?_⟩
  have hcontrol : (stepWord p s).control = 1#5 :=
    (control_eq_one_iff _).2 (by simp [accepts, inReady, hb, hr, hh, he, ho])
  have hword := encodeByteStep_of_control hcontrol
  rw [stepWord_idx, stepWord_byte, inData, hb] at hword
  exact hword.symm

/-- Settles O6: the rows, and the two ways of the selection. -/
theorem typeOpcodeMapIsExact : Obligations.TypeOpcodeMapIsExact :=
  ⟨opsHit_type8Rows, fun _ => decodeType8_of_known, fun _ => decodeType8_of_unknown⟩

/-- Settles O7: each field of the step word, and what it is for a byte to be accepted. -/
theorem stepWordFields : Obligations.StepWordFields := by
  intro p s
  refine ⟨stepWord_rst p s, stepWord_halted p s, stepWord_err p s, stepWord_eos p s, ?valid, stepWord_idx p s, ?byte⟩
  case valid => simp [accepts, inReady, and_assoc]
  case byte =>
    intro b hb
    rw [stepWord_byte, inData, hb, Option.getD_some]

/-- Settles O17: the reserved operation is refused, it is the one of every byte at `idx` 7, and its words have `idx` 7. -/
theorem reservedIndexRefused : Obligations.ReservedIndexRefused := by
  refine ⟨fun _ _ => rfl, fun s p rest b hin hidx hb hr hh he ho => ?accepted, fun n b c hn h => ?notReserved⟩
  case accepted =>
    have hop : decodeStep (stepWord p s) = .reservedIdx7 b := by
      simp [decodeStep_stepWord, hr, hh, he, ho, hb, hidx]
    rw [step_of_ports hin, hop]
    rfl
  case notReserved =>
    have hword : encodeByteStep n b = encodeByteStep 7#3 c :=
      OpWord.step.inj ((encode_decodeByteOp n b).symm.trans (congrArg encode h))
    have hidx : n = 7#3 := by simpa [encodeByteStep_eq_ofFields] using congrArg StepWord.idx hword
    simp [hidx] at hn

end

section
/-! PROOFS. The decoded value (R47, R65): its bytes side by side, the types it is applied for, and that END.HIT emits what
the selected decode operation gives. -/

namespace Sys2Proof.Machine

variable (t b0 b1 b2 b3 : Byte)

/-- The value is the four bytes side by side, first most significant. -/
theorem be32_eq_append : be32 b0 b1 b2 b3 = b0 ++ b1 ++ b2 ++ b3 :=
  calc be32 b0 b1 b2 b3
      = (b0 ++ b1 ++ b2 ++ b3).setWidth 32 := by
        rw [BitVec.setWidth_append_append_append_eq_shiftLeft_setWidth_or]
        rfl
    _ = b0 ++ b1 ++ b2 ++ b3 := BitVec.setWidth_eq _

theorem toNat_append_byte {n : Nat} (x : BitVec n) (b : Byte) : (x ++ b).toNat = x.toNat * 2 ^ 8 + b.toNat := by
  rw [BitVec.toNat_append, ← Nat.shiftLeft_add_eq_or_of_lt b.isLt, Nat.shiftLeft_eq]

theorem toNat_be32 : (be32 b0 b1 b2 b3).toNat =
    b0.toNat * 2 ^ 24 + b1.toNat * 2 ^ 16 + b2.toNat * 2 ^ 8 + b3.toNat := by
  rw [be32_eq_append, toNat_append_byte, toNat_append_byte, toNat_append_byte]
  ring

/-- The sign bit of the value is that of its first byte. -/
theorem getLsbD_be32_31 : (be32 b0 b1 b2 b3).getLsbD 31 = b0.getLsbD 7 := by
  rw [be32_eq_append]
  simp only [BitVec.getLsbD_append]
  rfl

theorem decodeValue_eq_ite :
    decodeValue t b0 b1 b2 b3 = if t = 0#8 ∨ t = 1#8 then be32 b0 b1 b2 b3 else 0#32 := by
  simp [decodeValue, isKnown]

/-- The decode operation of a type byte drives the message of that type byte. -/
theorem exec_decodeType8_eq (s : State) : exec (decodeType8 t) s = .next (driveDecoder (decodedMsg t s) s) := by
  rw [decodedMsg, decodeValue_eq_ite]
  by_cases h : t = 0#8 ∨ t = 1#8
  · rw [decodeType8_of_known h, if_pos h]
    rfl
  · rw [decodeType8_of_unknown h, if_neg h]
    rfl

end Sys2Proof.Machine

open Sys2Proof Sys2Proof.Machine

/-- Settles O29: the value, byte by byte, and the types it is applied for. -/
theorem valueIsBigEndian : Obligations.ValueIsBigEndian :=
  ⟨fun _ _ _ _ => ⟨be32_eq_append .., toNat_be32 .., getLsbD_be32_31 ..⟩, decodeValue_eq_ite⟩

/-- Settles O32: both are the message of `typ` and the buffer. -/
theorem endHitEmitsTheSelectedDecode : Obligations.EndHitEmitsTheSelectedDecode := by
  intro s t u ht hu
  obtain ⟨_, _, ⟨_, _, _, _, _, rfl, -, -⟩, rfl⟩ := execEndHit_next ht
  rw [exec_decodeType8_eq] at hu
  cases hu
  exact ⟨rfl, rfl⟩

end

section
/-! PROOFS. What an END.HIT does besides re-arming: it goes on when a called handler keeps its obligations (R78), and it
alone adds to the trace (R70). -/

namespace Sys2Proof.Machine

variable {s t : State} {i : Instr}

/-! ### A handler that keeps its obligations returns -/

theorem handlerCall_of_allowed {c : HostCall} (h : c.allowed = true) (s : State) : ∃ t, handlerCall c s = .next t := by
  cases c with
  | register _ _ | sendSimple _ | sendProgramInt _ _ _ => exact ⟨_, rfl⟩
  | registerUnsync _ _ | connect _ | closeTransport => cases h
  | sendCommand name =>
    obtain ⟨code, hcode⟩ := Option.isSome_iff_exists.1 h
    exact ⟨transmit (simpleFrame code) s, by simp only [handlerCall, hostCall, sendNamed, hcode, execEncSimple]⟩
  | sendProgram step delay count =>
    simp only [HostCall.allowed, Bool.and_eq_true, Option.isSome_iff_exists] at h
    obtain ⟨⟨⟨a, ha⟩, d, hd⟩, n, hn⟩ := h
    exact ⟨transmit (programFrame a d n) s,
      by simp only [handlerCall, hostCall, sendScaled, ha, hd, hn, execEncProgram]⟩

theorem handlerCalls_of_allowed {cs : List HostCall} (h : cs.all HostCall.allowed = true) (s : State) :
    ∃ t, handlerCalls cs s = .next t := by
  induction cs generalizing s with
  | nil => exact ⟨s, rfl⟩
  | cons c cs ih =>
    rw [List.all_cons, Bool.and_eq_true] at h
    obtain ⟨hc, hcs⟩ := h
    obtain ⟨u, hu⟩ := handlerCall_of_allowed hc s
    obtain ⟨t, ht⟩ := ih hcs u
    exact ⟨t, andThen_eq_next.2 ⟨u, hu, ht⟩⟩

theorem runHandler_of_returns
    (h : ∀ r ∈ s.host.handlerRuns.head?, r.ending = .returns ∧ r.acts.all HostCall.allowed = true) :
    ∃ t, runHandler s = .next t := by
  unfold runHandler
  split
  · exact ⟨s, rfl⟩
  · rename_i r rs hruns
    obtain ⟨hend, hacts⟩ := h r (by simp [hruns])
    obtain ⟨t, ht⟩ := handlerCalls_of_allowed hacts { s with host := { s.host with handlerRuns := rs } }
    exact ⟨t, andThen_eq_next.2 ⟨t, ht, by rw [hend]; rfl⟩⟩

/-- An END.HIT goes on when a handler that it calls keeps its obligations (R78). -/
theorem execEndHit_of_handlerReturns (h : s.handlerReturns) : ∃ t, execEndHit s = .next t := by
  suffices hd : ∃ u, dispatch (decodedMsg s.typ s) (emit (decodedMsg s.typ s)
      (driveDecoder (decodedMsg s.typ s) (consume s))) = .next u by
    obtain ⟨u, hu⟩ := hd
    exact ⟨rearm u, andThen_eq_next.2 ⟨u, hu, rfl⟩⟩
  unfold dispatch
  split
  · rename_i handler hfind
    refine runHandler_of_returns (h.resolve_left fun hnone => ?_)
    have hsome : Registry.find s.host.registry s.typ.toNat = some handler := hfind
    simp [hnone] at hsome
  · exact ⟨_, rfl⟩

/-! ### The trace -/

/-- An END.HIT emits the message of `typ` and the buffer and re-arms (R61, R70). -/
theorem execEndHit_trace_idx (h : execEndHit s = .next t) :
    t.seen.trace = s.seen.trace ++ [decodedMsg s.typ s] ∧ t.idx = 0#3 := by
  obtain ⟨_, _, ⟨_, _, _, _, _, rfl, -, -⟩, rfl⟩ := execEndHit_next h
  exact ⟨rfl, rfl⟩

/-- An operation never takes from the trace. -/
theorem exec_trace_length_le (h : exec i s = .next t) : s.seen.trace.length ≤ t.seen.trace.length := by
  cases i
  case endHit => simp [(execEndHit_trace_idx h).1]
  case reservedIdx7 => cases h
  all_goals cases h; simp

theorem step_trace_length_le (h : step s = .next t) : s.seen.trace.length ≤ t.seen.trace.length := by
  obtain ⟨p, rest, -, hex⟩ | ⟨-, _, _, _, _, _, _, _, rfl, -, -⟩ := step_next h
  · exact (exec_trace_length_le hex :)
  · exact le_rfl

theorem runSteps_trace_length_le {n : Nat} (h : runSteps n s = .next t) :
    s.seen.trace.length ≤ t.seen.trace.length := by
  induction n generalizing s with
  | zero =>
    cases h
    exact le_rfl
  | succ n ih =>
    rw [runSteps_succ] at h
    obtain ⟨u, hu, ht⟩ := andThen_eq_next.1 h
    exact (step_trace_length_le hu).trans (ih ht)

end Sys2Proof.Machine
end

section
/-! PROOFS. The sequences that make one message on their last byte (R46): what is still to come, read off at each value of
`idx` from the last one back to the first. -/

namespace Sys2Proof.Machine

variable {s t : State} {b : Byte} {bs : List Byte} {m : Msg}

/-! ### A run byte by byte -/

/-- The parser waits for bytes: nothing is presented, it is not halted, and every handler keeps its obligations. -/
def Listening (s : State) : Prop :=
  s.inputs = [] ∧ s.stream = [] ∧ s.halted = false
    ∧ ∀ r ∈ s.host.handlerRuns, r.ending = .returns ∧ r.acts.all HostCall.allowed = true

theorem Listening.handlerReturns (hs : Listening s) : s.handlerReturns := by
  obtain ⟨-, -, -, hruns⟩ := hs
  exact .inr fun r hr => hruns r (List.mem_of_mem_head? hr)

/-- The state in which the operation of the accepted byte `b` is run. -/
def accepting (b : Byte) (s : State) : State :=
  beginStep Signals.byteOffer (beginConnection Signals.byteOffer { s with stream := [b] })

theorem step_deliver_singleton (hs : Listening s) (b : Byte) :
    step (deliver [b] s) = exec (decodeByteOp s.idx b) (accepting b s) := by
  obtain ⟨hin, hstream, hhalted, -⟩ := hs
  have hop : decodeStep (stepWord Signals.byteOffer (deliver [b] s)) = decodeByteOp s.idx b := by
    simp [decodeStep_stepWord, offered, hstream, hhalted, Signals.byteOffer, Signals.none]
  have hstate : { deliver [b] s with inputs := [] } = { s with stream := [b] } := by
    simp [deliver, hin, hstream]
  rw [step_of_ports (p := Signals.byteOffer) (rest := []) (by simp [hin]), hop, hstate, accepting]

/-- The byte consumed, the parser waits for the next one. -/
theorem Listening.consume_accepting (hs : Listening s) (b : Byte) : Listening (consume (accepting b s)) := by
  obtain ⟨hin, -, hhalted, hruns⟩ := hs
  exact ⟨hin, rfl, hhalted, hruns⟩

/-- A run over `b` and more bytes goes on over the others after the operation of `b`. -/
theorem run_deliver_cons (hs : Listening s) (h : exec (decodeByteOp s.idx b) (accepting b s) = .next t) (n : Nat)
    (bs : List Byte) : runSteps (n + 1) (deliver (b :: bs) s) = runSteps n (deliver bs t) := by
  have hstep : step (deliver (b :: bs) s) = .next (deliver bs t) := by
    obtain ⟨hin, -⟩ := id hs
    rw [← List.singleton_append, deliver_append, step_deliver (p := Signals.byteOffer) (rest := []) bs
      (by simp [hin]) (by simp), step_deliver_singleton hs, h]
    rfl
  rw [runSteps_succ, hstep, andThen_next]

/-- Over the bytes offered in the state, the parser emits one message, on the last byte, and is then at `idx` 0. -/
def EmitsLast (s : State) (bs : List Byte) (m : Msg) : Prop :=
  ∃ t u, runSteps bs.length (deliver bs s) = .next t ∧ runSteps (bs.length - 1) (deliver bs s) = .next u
    ∧ t.idx = 0#3 ∧ t.seen.trace = s.seen.trace ++ [m] ∧ u.seen.trace = s.seen.trace

theorem not_emitsLast_nil : ¬ EmitsLast s [] m := by
  rintro ⟨t, u, ht, -, -, htrace, -⟩
  cases ht
  simp at htrace

/-- A byte whose operation emits nothing leaves the others to emit the message. -/
theorem emitsLast_cons_of_quiet (hs : Listening s) (h : exec (decodeByteOp s.idx b) (accepting b s) = .next t)
    (htrace : t.seen.trace = s.seen.trace) : EmitsLast s (b :: bs) m ↔ EmitsLast t bs m := by
  cases bs with
  | nil =>
    refine iff_of_false ?_ not_emitsLast_nil
    rintro ⟨u, _, hu, -, -, hut, -⟩
    rw [List.length_singleton, run_deliver_cons hs h, runSteps_zero] at hu
    cases hu
    simp [htrace] at hut
  | cons c cs =>
    simp only [EmitsLast, List.length_cons, Nat.add_sub_cancel, run_deliver_cons hs h, htrace]

/-- At the end marker the message is emitted, so nothing may follow. -/
theorem emitsLast_cons_endMarker (hs : Listening s) (hidx : s.idx = 6#3) :
    EmitsLast s (0xFF#8 :: bs) m ↔ bs = [] ∧ m = decodedMsg s.typ s := by
  have hop : decodeByteOp s.idx 0xFF#8 = .endHit := by rw [hidx]; rfl
  obtain ⟨t, ht⟩ := execEndHit_of_handlerReturns (s := accepting 0xFF#8 s) hs.handlerReturns
  obtain ⟨htrace, htidx⟩ : t.seen.trace = s.seen.trace ++ [decodedMsg s.typ s] ∧ t.idx = 0#3 :=
    execEndHit_trace_idx (s := accepting 0xFF#8 s) ht
  have hexec : exec (decodeByteOp s.idx 0xFF#8) (accepting 0xFF#8 s) = .next t := hop ▸ ht
  cases bs with
  | nil =>
    simp only [EmitsLast, List.length_singleton, Nat.sub_self, run_deliver_cons hs hexec, runSteps_zero,
      Host.Outcome.next.injEq]
    constructor
    · rintro ⟨_, _, rfl, -, -, hm, -⟩
      exact ⟨trivial, by simpa [htrace, eq_comm] using hm⟩
    · rintro ⟨-, rfl⟩
      exact ⟨_, _, rfl, rfl, htidx, htrace, rfl⟩
  | cons c cs =>
    refine iff_of_false ?_ (by simp)
    rintro ⟨_, u, -, hu, -, -, hut⟩
    rw [List.length_cons, List.length_cons, Nat.add_sub_cancel, run_deliver_cons hs hexec] at hu
    have hlen : t.seen.trace.length ≤ u.seen.trace.length := (runSteps_trace_length_le hu :)
    simp [hut, htrace] at hlen

/-! ### Bytes up to a marker -/

/-- The bytes after the first `v` are in `R`. -/
def AfterFirst (v : Byte) (R : List Byte → Prop) (bs : List Byte) : Prop :=
  ∃ xs rest, bs = xs ++ v :: rest ∧ v ∉ xs ∧ R rest

variable {v : Byte} {R : List Byte → Prop}

theorem not_afterFirst_nil : ¬ AfterFirst v R [] := by simp [AfterFirst]

theorem afterFirst_cons_self : AfterFirst v R (v :: bs) ↔ R bs := by
  constructor
  · rintro ⟨xs, rest, hbs, hxs, hrest⟩
    cases xs <;> simp_all
  · exact fun h => ⟨[], bs, rfl, List.not_mem_nil, h⟩

theorem afterFirst_cons_of_ne (hb : b ≠ v) : AfterFirst v R (b :: bs) ↔ AfterFirst v R bs := by
  constructor
  · rintro ⟨xs, rest, hbs, hxs, hrest⟩
    cases xs with
    | nil => simp_all
    | cons x xs =>
      obtain ⟨-, hbs⟩ := List.cons.inj hbs
      exact ⟨xs, rest, hbs, fun h => hxs (List.mem_cons_of_mem _ h), hrest⟩
  · rintro ⟨xs, rest, rfl, hxs, hrest⟩
    exact ⟨b :: xs, rest, rfl, by simp [hxs, hb.symm], hrest⟩

/-- The end marker comes last, and only there. -/
def EndsAtMarker (bs : List Byte) : Prop := AfterFirst 0xFF#8 (fun rest => rest = []) bs

/-- The bytes that follow the start marker of a frame with the message `m`. -/
def FrameRest (m : Msg) (bs : List Byte) : Prop :=
  ∃ t p0 p1 p2 p3 rest, bs = t :: p0 :: p1 :: p2 :: p3 :: rest ∧ EndsAtMarker rest
    ∧ m = ⟨t, decodeValue t p0 p1 p2 p3⟩

/-- The sequences of R46 are those that go on, after their first start marker, like a frame. -/
theorem frameSequence_iff : FrameSequence bs m ↔ AfterFirst 0xFE#8 (FrameRest m) bs := by
  have hvalue (t p0 p1 p2 p3 : Byte) : decodeValue t p0 p1 p2 p3
      = if t = 0#8 ∨ t = 1#8 then p0 ++ p1 ++ p2 ++ p3 else 0#32 := by
    rw [decodeValue_eq_ite, be32_eq_append]
  constructor
  · rintro ⟨xs, ys, t, p0, p1, p2, p3, rfl, hxs, hys, rfl⟩
    exact ⟨xs, _, rfl, hxs, t, p0, p1, p2, p3, _, rfl, ⟨ys, [], rfl, hys, rfl⟩, by rw [hvalue]⟩
  · rintro ⟨xs, _, rfl, hxs, t, p0, p1, p2, p3, _, rfl, ⟨ys, _, rfl, hys, rfl⟩, rfl⟩
    exact ⟨xs, ys, t, p0, p1, p2, p3, rfl, hxs, hys, by rw [hvalue]⟩

/-! ### At `idx` 6: bytes up to the end marker (R61, R62) -/

theorem emitsLast_of_idx_six (hs : Listening s) (hidx : s.idx = 6#3) :
    EmitsLast s bs m ↔ EndsAtMarker bs ∧ m = decodedMsg s.typ s := by
  induction bs generalizing s with
  | nil => simp [not_emitsLast_nil, EndsAtMarker, not_afterFirst_nil]
  | cons b bs ih =>
    by_cases hb : b = 0xFF#8
    · subst hb
      rw [emitsLast_cons_endMarker hs hidx, EndsAtMarker, afterFirst_cons_self]
    · have habsorb : exec (decodeByteOp s.idx b) (accepting b s) = .next (consume (accepting b s)) := by
        rw [hidx, decodeByteOp_six, if_neg hb]
        rfl
      rw [emitsLast_cons_of_quiet hs habsorb rfl, ih (hs.consume_accepting b) hidx]
      exact and_congr_left' (afterFirst_cons_of_ne hb).symm

/-! ### At `idx` 2 to 5: the payload bytes (R57 to R60) -/

/-- A payload byte is stored at its address, whatever it is, and the parser waits for the next one. -/
theorem Listening.payloadByte (hs : Listening s) (k : Fin Config.payloadLen) (hidx : s.idx = frameIdx (k.val + 2))
    (b : Byte) : ∃ t, exec (decodeByteOp s.idx b) (accepting b s) = .next t ∧ Listening t
      ∧ t.idx = frameIdx (k.val + 3) ∧ t.typ = s.typ ∧ t.buf = Memory.store s.buf k b
      ∧ t.seen.trace = s.seen.trace := by
  refine ⟨setIdx (frameIdx (k.val + 3)) (storeByte k b (consume (accepting b s))), ?_, hs.consume_accepting b, rfl, rfl,
    rfl, rfl⟩
  rw [hidx]
  fin_cases k <;> rfl

/-- A store after the bytes of `got` leaves those of `got` and the byte stored. -/
theorem load_store_getElem? {mem : Memory} {got : List Byte} (hlen : got.length < Config.payloadLen)
    (hgot : ∀ k < got.length, Memory.load mem k = got[k]?) (b : Byte) :
    ∀ k < (got ++ [b]).length, Memory.load (Memory.store mem ⟨got.length, hlen⟩ b) k = (got ++ [b])[k]? := by
  intro k hk
  rw [List.length_append, List.length_singleton] at hk
  obtain hlt | rfl : k < got.length ∨ k = got.length := by omega
  · rw [Memory.load_store_below _ _ _ hlt, hgot k hlt, List.getElem?_append_left hlt]
  · simp [Memory.load_store]

/-- With the payload bytes `got` received, the bytes to come are the rest of the payload, and then those up to the end
marker. -/
theorem emitsLast_of_payload {got : List Byte} (hs : Listening s) (hidx : s.idx = frameIdx (got.length + 2))
    (hlen : got.length ≤ 4) (hgot : ∀ k < got.length, Memory.load s.buf k = got[k]?) :
    EmitsLast s bs m ↔ ∃ p0 p1 p2 p3, got ++ bs.take (4 - got.length) = [p0, p1, p2, p3]
      ∧ EndsAtMarker (bs.drop (4 - got.length)) ∧ m = ⟨s.typ, decodeValue s.typ p0 p1 p2 p3⟩ := by
  induction bs generalizing s got with
  | nil => simp [not_emitsLast_nil, EndsAtMarker, not_afterFirst_nil]
  | cons b bs ih =>
    obtain hfull | hmore := hlen.eq_or_lt
    · obtain ⟨p0, p1, p2, p3, rfl⟩ := List.length_eq_four.1 hfull
      have hmsg : decodedMsg s.typ s = ⟨s.typ, decodeValue s.typ p0 p1 p2 p3⟩ := by
        simp [decodedMsg, bufByte, hgot]
      rw [emitsLast_of_idx_six hs hidx, hmsg]
      simp
    · obtain ⟨t, ht, hst, htidx, httyp, htbuf, httrace⟩ := hs.payloadByte ⟨got.length, hmore⟩ hidx b
      have hload := load_store_getElem? hmore hgot b
      have hrest : 4 - got.length = 4 - (got ++ [b]).length + 1 := by
        rw [List.length_append, List.length_singleton]
        omega
      rw [emitsLast_cons_of_quiet hs ht httrace, ih hst (got := got ++ [b]) (by simp [htidx]) (by simpa)
        (htbuf ▸ hload), httyp, hrest, List.take_succ_cons, List.drop_succ_cons, List.append_assoc,
        List.singleton_append]

/-! ### At `idx` 1 and 0: the type byte, and the bytes up to the start marker (R54 to R56) -/

theorem emitsLast_of_idx_one (hs : Listening s) (hidx : s.idx = 1#3) : EmitsLast s bs m ↔ FrameRest m bs := by
  cases bs with
  | nil => simp [not_emitsLast_nil, FrameRest]
  | cons b bs =>
    have htype : exec (decodeByteOp s.idx b) (accepting b s)
        = .next (setIdx 2#3 (setTyp b (consume (accepting b s)))) := by
      rw [hidx]
      rfl
    have hst : Listening (setIdx 2#3 (setTyp b (consume (accepting b s)))) := hs.consume_accepting b
    rw [emitsLast_cons_of_quiet hs htype rfl, emitsLast_of_payload (got := []) hst rfl (by simp) (by simp)]
    simp only [List.nil_append, List.length_nil, Nat.sub_zero, FrameRest, List.cons.injEq]
    constructor
    · rintro ⟨p0, p1, p2, p3, htake, hend, rfl⟩
      refine ⟨b, p0, p1, p2, p3, bs.drop 4, ⟨rfl, ?_⟩, hend, rfl⟩
      rw [← List.take_append_drop 4 bs, htake]
      simp
    · rintro ⟨_, p0, p1, p2, p3, rest, ⟨rfl, rfl⟩, hend, rfl⟩
      exact ⟨p0, p1, p2, p3, rfl, hend, rfl⟩

theorem emitsLast_of_idx_zero (hs : Listening s) (hidx : s.idx = 0#3) :
    EmitsLast s bs m ↔ AfterFirst 0xFE#8 (FrameRest m) bs := by
  induction bs generalizing s with
  | nil => exact iff_of_false not_emitsLast_nil not_afterFirst_nil
  | cons b bs ih =>
    by_cases hb : b = 0xFE#8
    · subst hb
      have hhit : exec (decodeByteOp s.idx 0xFE#8) (accepting 0xFE#8 s)
          = .next (setIdx 1#3 (consume (accepting 0xFE#8 s))) := by
        rw [hidx]
        rfl
      have hst : Listening (setIdx 1#3 (consume (accepting 0xFE#8 s))) := hs.consume_accepting _
      rw [emitsLast_cons_of_quiet hs hhit rfl, emitsLast_of_idx_one hst rfl, afterFirst_cons_self]
    · have hskip : exec (decodeByteOp s.idx b) (accepting b s) = .next (consume (accepting b s)) := by
        rw [hidx, decodeByteOp_zero, if_neg hb]
        rfl
      rw [emitsLast_cons_of_quiet hs hskip rfl, ih (hs.consume_accepting b) hidx, afterFirst_cons_of_ne hb]

end Sys2Proof.Machine

open Sys2Proof Sys2Proof.Machine

/-- Settles O27: what is still to come is read off at `idx` 6, then at 5 to 2, 1 and 0, where it is the language. -/
theorem framesAreTheLanguage : Obligations.FramesAreTheLanguage := by
  intro s bs m hidx hhalted hin hstream hruns
  exact frameSequence_iff.trans (emitsLast_of_idx_zero ⟨hin, hstream, hhalted, hruns⟩ hidx).symm

end

section
/-! PROOFS. What a handler's run leaves behind, exactly (R75, R76), and with it the whole state after an END.HIT (R61). -/

namespace Sys2Proof.Machine

variable {s t : State}

/-! ### A handler's run that returns -/

/-- `s` after a handler's host calls: its registrations made and its frames written, in order (R76). -/
def afterCalls (cs : List HostCall) (s : State) : State :=
  { s with
    host := { s.host with registry := actRegistry cs s.host.registry }
    seen := { s.seen with sent := s.seen.sent ++ cs.flatMap callFrames } }

@[simp] theorem afterCalls_nil (s : State) : afterCalls [] s = s := by
  simp [afterCalls, actRegistry]

theorem actRegistry_cons (c : HostCall) (cs : List HostCall) (r : Registry) :
    actRegistry (c :: cs) r = actRegistry cs (actRegistry [c] r) := by
  cases c <;> rfl

theorem afterCalls_cons (c : HostCall) (cs : List HostCall) (s : State) :
    afterCalls (c :: cs) s = afterCalls cs (afterCalls [c] s) := by
  simp [afterCalls, actRegistry_cons c cs]

theorem handlerCall_eq_afterCalls {c : HostCall} (h : handlerCall c s = .next t) : t = afterCalls [c] s := by
  cases c with
  | register _ _ | sendSimple _ | sendProgramInt _ _ _ =>
    cases h
    simp [afterCalls, actRegistry, callFrames, registerHandler, transmit]
  | registerUnsync _ _ | connect _ | closeTransport => cases h
  | sendCommand name =>
    cases name <;> cases h <;> simp [afterCalls, actRegistry, callFrames, commandCode, transmit]
  | sendProgram step delay count =>
    simp only [handlerCall, hostCall, sendScaled] at h
    split at h
    · cases h
      simp [afterCalls, actRegistry, callFrames, transmit, *]
    · cases h

theorem handlerCalls_eq_afterCalls {cs : List HostCall} (h : handlerCalls cs s = .next t) : t = afterCalls cs s := by
  induction cs generalizing s with
  | nil =>
    cases h
    exact (afterCalls_nil _).symm
  | cons c cs ih =>
    obtain ⟨u, hu, ht⟩ := andThen_eq_next.1 h
    rw [afterCalls_cons, ← handlerCall_eq_afterCalls hu]
    exact ih ht

/-- A handler that goes on has returned. -/
theorem finishHandler_eq_next {e : HandlerEnd} (h : finishHandler e s = .next t) : e = .returns ∧ t = s := by
  cases e <;> cases h
  exact ⟨rfl, rfl⟩

/-- `s` after the next handler run: the run used up and its calls made; with none listed, `s` (log entry 10). -/
def afterHandler (s : State) : State :=
  match s.host.handlerRuns with
  | [] => s
  | r :: rs => afterCalls r.acts { s with host := { s.host with handlerRuns := rs } }

theorem runHandler_eq_afterHandler (h : runHandler s = .next t) : t = afterHandler s := by
  unfold runHandler at h
  unfold afterHandler
  split at h
  · cases h
    simp [*]
  · obtain ⟨u, hu, ht⟩ := andThen_eq_next.1 h
    obtain ⟨-, rfl⟩ := finishHandler_eq_next ht
    simp [handlerCalls_eq_afterCalls hu, *]

/-- A handler's run changes the registry and the runs, and adds frames to those sent. -/
theorem afterHandler_frame (s : State) : ∃ reg runs frames, afterHandler s = { s with
    host := { s.host with registry := reg, handlerRuns := runs }
    seen := { s.seen with sent := s.seen.sent ++ frames } } := by
  unfold afterHandler
  split
  · exact ⟨s.host.registry, s.host.handlerRuns, [], by simp⟩
  · exact ⟨_, _, _, rfl⟩

/-! ### The whole END.HIT -/

/-- The state in which END.HIT dispatches: the byte consumed, the message driven and emitted. -/
def emitted (s : State) : State :=
  emit (decodedMsg s.typ s) (driveDecoder (decodedMsg s.typ s) (consume s))

/-- An END.HIT that goes on re-arms after calling nothing, or after one call and run of the registered handler (R61,
R74). -/
theorem execEndHit_cases (h : execEndHit s = .next t) :
    (Registry.find s.host.registry (s.typ.toNat : Int) = none ∧ t = rearm (emitted s))
    ∨ ∃ handler, Registry.find s.host.registry (s.typ.toNat : Int) = some handler
        ∧ t = rearm (afterHandler (recordCall handler (decodedMsg s.typ s).value (emitted s))) := by
  obtain ⟨u, hu, ht⟩ := andThen_eq_next.1 h
  cases ht
  unfold dispatch at hu
  split at hu
  · rename_i handler hfind
    exact .inr ⟨handler, hfind, congrArg rearm (runHandler_eq_afterHandler hu)⟩
  · rename_i hfind
    cases hu
    exact .inl ⟨hfind, rfl⟩

/-- The calls that an END.HIT makes (R74). -/
def endHitCalls (s : State) : List Call :=
  ((Registry.find s.host.registry (s.typ.toNat : Int)).map
    fun handler => ⟨handler, readValue s.host.reading (decodedMsg s.typ s).value⟩).toList

theorem endHitCalls_of_none (h : Registry.find s.host.registry (s.typ.toNat : Int) = none) : endHitCalls s = [] := by
  simp [endHitCalls, h]

theorem endHitCalls_of_some {handler : Nat} (h : Registry.find s.host.registry (s.typ.toNat : Int) = some handler) :
    endHitCalls s = [⟨handler, readValue s.host.reading (decodedMsg s.typ s).value⟩] := by
  simp [endHitCalls, h]

/-- The whole state after an END.HIT that goes on; what a called handler did to the registry, the runs and the frames is
left open, and without a handler nothing was done. -/
theorem execEndHit_effect (h : execEndHit s = .next t) : ∃ reg runs frames,
    t = rearm { emitted s with
      host := { s.host with registry := reg, handlerRuns := runs }
      seen := { (emitted s).seen with
        calls := s.seen.calls ++ endHitCalls s, sent := s.seen.sent ++ frames } }
    ∧ (Registry.find s.host.registry (s.typ.toNat : Int) = none →
        reg = s.host.registry ∧ runs = s.host.handlerRuns ∧ frames = []) := by
  obtain ⟨hfind, rfl⟩ | ⟨handler, hfind, rfl⟩ := execEndHit_cases h
  · refine ⟨s.host.registry, s.host.handlerRuns, [], ?_, fun _ => ⟨rfl, rfl, rfl⟩⟩
    rw [endHitCalls_of_none hfind, List.append_nil, List.append_nil]
    rfl
  · obtain ⟨reg, runs, frames, hrun⟩ :=
      afterHandler_frame (recordCall handler (decodedMsg s.typ s).value (emitted s))
    refine ⟨reg, runs, frames, ?_, by simp [hfind]⟩
    rw [hrun, endHitCalls_of_some hfind]
    rfl

/-- The value decoded from a buffer that holds all four payload bytes (R65). -/
theorem decodedMsg_value_of_load {b0 b1 b2 b3 : Byte} (h0 : Memory.load s.buf 0 = some b0)
    (h1 : Memory.load s.buf 1 = some b1) (h2 : Memory.load s.buf 2 = some b2) (h3 : Memory.load s.buf 3 = some b3) :
    (decodedMsg s.typ s).value = if s.typ = 0#8 ∨ s.typ = 1#8 then b0 ++ b1 ++ b2 ++ b3 else 0#32 := by
  simp [decodedMsg, bufByte, h0, h1, h2, h3, decodeValue_eq_ite, be32_eq_append]

end Sys2Proof.Machine

open Sys2Proof Sys2Proof.Machine

/-- Settles O22: the whole state after an END.HIT that goes on, which it does by R78's premise. -/
theorem endHitEffect : Obligations.EndHitEffect := by
  refine ⟨decodeStep_encodeByteStep 6#3 0xFF#8, fun s hs => ?_⟩
  obtain ⟨t, ht⟩ := execEndHit_of_handlerReturns hs
  obtain ⟨reg, runs, frames, rfl, hnone⟩ := execEndHit_effect ht
  refine ⟨(decodedMsg s.typ s).value, _, _, reg, runs, endHitCalls s, frames, ht, fun htyp => ?unknown,
    fun htyp b0 b1 b2 b3 h0 h1 h2 h3 => ?known, fun hfind => ?dropped, fun handler hfind => ?called⟩
  case unknown => simp only [decodedMsg, decodeValue_eq_ite, if_neg htyp]
  case known => rw [decodedMsg_value_of_load h0 h1 h2 h3, if_pos htyp]
  case dropped =>
    obtain ⟨hreg, hruns, hframes⟩ := hnone hfind
    exact ⟨hreg, hruns, endHitCalls_of_none hfind, hframes⟩
  case called => exact endHitCalls_of_some hfind

end

section
/-! PROOFS. The framer's table (R53): the operation of an accepted byte row by row, what all rows have in common, and that
the messages emitted are paid for by the bytes consumed (R63). -/

namespace Sys2Proof.Machine

variable {s t u : State} {b : Byte} {rest : List Input}

/-! ### The rows of the table, END.HIT aside (R54 to R60, R62) -/

/-- The start marker, the type byte, payload byte `k` and the end marker are awaited at `idx` 0, 1, `k` + 2 and 6; 7 is
reserved (R30). -/
theorem Index.frame_cases (n : Index) :
    n = 0#3 ∨ n = 1#3 ∨ (∃ k : Fin Config.payloadLen, n = frameIdx (k.val + 2)) ∨ n = 6#3 ∨ n = 7#3 := by
  revert n
  decide

theorem toNat_frameIdx {n : Nat} (h : n < 8) : (frameIdx n).toNat = n := Nat.mod_eq_of_lt h

theorem exec_byte_zero (b : Byte) (s : State) : exec (decodeByteOp 0#3 b) s
    = .next (if b = 0xFE#8 then setIdx 1#3 (consume s) else consume s) := by
  rw [decodeByteOp_zero]
  split <;> rfl

theorem exec_byte_one (b : Byte) (s : State) :
    exec (decodeByteOp 1#3 b) s = .next (setIdx 2#3 (setTyp b (consume s))) := rfl

theorem exec_byte_payload (k : Fin Config.payloadLen) (b : Byte) (s : State) :
    exec (decodeByteOp (frameIdx (k.val + 2)) b) s
      = .next (setIdx (frameIdx (k.val + 3)) (storeByte k b (consume s))) := by
  fin_cases k <;> rfl

theorem exec_byte_six_of_ne (hb : b ≠ 0xFF#8) (s : State) : exec (decodeByteOp 6#3 b) s = .next (consume s) := by
  rw [decodeByteOp_six, if_neg hb]
  rfl

theorem exec_byte_end (s : State) : exec (decodeByteOp 6#3 0xFF#8) s = execEndHit s := rfl

/-! ### What the rows have in common -/

/-- `t` is `s` with one byte consumed, at most one step further in the frame, and `typ` and `buf` perhaps written: what
every row but END.HIT can do. -/
def QuietByte (s t : State) : Prop :=
  ∃ n v m, t = { s with idx := n, typ := v, buf := m, stream := s.stream.tail } ∧ n.toNat ≤ s.idx.toNat + 1

theorem QuietByte.frame (h : QuietByte s t) :
    t.halted = s.halted ∧ t.inputs = s.inputs ∧ t.stream = s.stream.tail ∧ t.seen = s.seen := by
  obtain ⟨_, _, _, rfl, -⟩ := h
  exact ⟨rfl, rfl, rfl, rfl⟩

/-- Every cell of `idx` 0 to 6 but END.HIT has a next state. -/
theorem exec_byte_quiet (hidx : s.idx.toNat ≤ 6) (hq : ¬ (s.idx = 6#3 ∧ b = 0xFF#8)) :
    ∃ t, exec (decodeByteOp s.idx b) s = .next t ∧ QuietByte s t := by
  rcases Index.frame_cases s.idx with hn | hn | ⟨k, hn⟩ | hn | hn
  · -- SYNC.HIT, SYNC.SKIP
    rw [hn, exec_byte_zero]
    split
    · exact ⟨_, rfl, _, _, _, rfl, by simp [hn]⟩
    · exact ⟨_, rfl, _, _, _, rfl, Nat.le_succ _⟩
  · -- TYPE
    rw [hn, exec_byte_one]
    exact ⟨_, rfl, _, _, _, rfl, by simp [hn]⟩
  · -- PAY0 to PAY3
    have hk : k.val < 4 := k.isLt
    rw [hn, exec_byte_payload]
    refine ⟨_, rfl, _, _, _, rfl, ?_⟩
    rw [hn, toNat_frameIdx (by omega), toNat_frameIdx (by omega)]
  · -- END.ABSORB
    rw [hn, exec_byte_six_of_ne fun hb => hq ⟨hn, hb⟩]
    exact ⟨_, rfl, _, _, _, rfl, Nat.le_succ _⟩
  · -- RESERVED.IDX7
    simp [hn] at hidx

/-- An accepted byte that has a next state was awaited at `idx` 0 to 6. -/
theorem idx_le_six_of_exec_byte (h : exec (decodeByteOp s.idx b) s = .next t) : s.idx.toNat ≤ 6 := by
  by_contra hlt
  have h8 : s.idx.toNat < 8 := s.idx.isLt
  have hn : s.idx = 7#3 := BitVec.eq_of_toNat_eq (show s.idx.toNat = 7 by omega)
  rw [hn] at h
  cases h

/-- The cell of END.HIT: the message emitted, the calls made, the parser re-armed (R61). -/
theorem execEndHit_cell (h : execEndHit s = .next t) : t.halted = s.halted ∧ t.inputs = s.inputs
    ∧ t.stream = s.stream.tail ∧ t.idx = 0#3 ∧ t.buf = []
    ∧ t.seen.trace = s.seen.trace ++ [decodedMsg s.typ s] ∧ t.seen.calls = s.seen.calls ++ endHitCalls s := by
  obtain ⟨_, _, _, rfl, -⟩ := execEndHit_effect h
  exact ⟨rfl, rfl, rfl, rfl, rfl, rfl, rfl⟩

/-! ### Messages and bytes (R63) -/

/-- From `s` to `t`, every message emitted is paid for by seven bytes, those `idx` has already counted among them, and by
an end marker. -/
def EmitsWithin (s t : State) : Prop :=
  7 * t.seen.trace.length + t.idx.toNat + t.stream.length
      ≤ 7 * s.seen.trace.length + s.idx.toNat + s.stream.length
    ∧ t.seen.trace.length + t.stream.count 0xFF#8 ≤ s.seen.trace.length + s.stream.count 0xFF#8

theorem EmitsWithin.trans (h : EmitsWithin s t) (g : EmitsWithin t u) : EmitsWithin s u :=
  ⟨g.1.trans h.1, g.2.trans h.2⟩

/-- Where nothing is emitted or consumed, `idx` must not rise. -/
theorem EmitsWithin.of_idle (hidx : t.idx.toNat ≤ s.idx.toNat) (hstream : t.stream = s.stream)
    (htrace : t.seen.trace = s.seen.trace) : EmitsWithin s t := by
  rw [EmitsWithin, hstream, htrace]
  exact ⟨by omega, le_rfl⟩

/-- A byte consumed pays for one step in the frame. -/
theorem QuietByte.emitsWithin (h : QuietByte s t) (hb : s.stream.head? = some b) : EmitsWithin s t := by
  obtain ⟨n, v, m, rfl, hn⟩ := h
  obtain ⟨bs, hbs⟩ := List.head?_eq_some_iff.1 hb
  simp only [EmitsWithin, hbs, List.tail_cons, List.length_cons]
  exact ⟨by omega, Nat.add_le_add_left List.count_le_count_cons _⟩

/-- The end marker at `idx` 6 is the seventh byte of its frame. -/
theorem execEndHit_emitsWithin (h : execEndHit s = .next t) (hidx : s.idx = 6#3)
    (hb : s.stream.head? = some 0xFF#8) : EmitsWithin s t := by
  obtain ⟨-, -, hstream, htidx, -, htrace, -⟩ := execEndHit_cell h
  obtain ⟨bs, hbs⟩ := List.head?_eq_some_iff.1 hb
  have hsix : (6#3).toNat = 6 := rfl
  rw [EmitsWithin, hstream, htidx, htrace, hidx, hbs, hsix, List.tail_cons, List.length_append, List.length_singleton,
    List.length_cons, List.count_cons_self, BitVec.toNat_zero]
  omega

theorem exec_byte_emitsWithin (h : exec (decodeByteOp s.idx b) s = .next t) (hb : s.stream.head? = some b) :
    EmitsWithin s t := by
  by_cases hend : s.idx = 6#3 ∧ b = 0xFF#8
  · obtain ⟨hidx, rfl⟩ := hend
    rw [hidx, exec_byte_end] at h
    exact execEndHit_emitsWithin h hidx hb
  · obtain ⟨u, hu, hquiet⟩ := exec_byte_quiet (idx_le_six_of_exec_byte h) hend
    cases hu.symm.trans h
    exact hquiet.emitsWithin hb

/-- The byte on offer is the first one of the stream. -/
theorem head?_of_offered {p : Signals} (h : offered p s = some b) : s.stream.head? = some b := by
  unfold offered at h
  split at h
  · exact h
  · cases h

/-- A parser step emits within its bytes: control operations consume nothing and leave `idx` or clear it. -/
theorem parserStep_emitsWithin {p : Signals} (h : parserStep p s = .next t) : EmitsWithin s t := by
  rw [parserStep, decodeStep_stepWord] at h
  split_ifs at h with hr hh he ho
  · -- RESET
    cases h
    exact .of_idle (Nat.zero_le _) rfl rfl
  · -- HALTED.HOLD
    cases h
    exact .of_idle le_rfl rfl rfl
  · -- ERR
    cases h
    exact .of_idle le_rfl rfl rfl
  · -- EOS
    cases h
    exact .of_idle le_rfl rfl rfl
  · -- an accepted byte, or IDLE
    cases hof : offered p s with
    | none =>
      rw [hof] at h
      cases h
      exact .of_idle le_rfl rfl rfl
    | some b =>
      rw [hof] at h
      exact exec_byte_emitsWithin (s := beginStep p (beginConnection p s)) h (head?_of_offered hof)

theorem step_emitsWithin (h : step s = .next t) : EmitsWithin s t := by
  obtain ⟨p, rest, -, hex⟩ | ⟨-, _, _, _, _, _, _, _, rfl, -, -⟩ := step_next h
  · exact parserStep_emitsWithin (s := { s with inputs := rest }) hex
  · exact .of_idle le_rfl rfl rfl

theorem runSteps_emitsWithin {n : Nat} (h : runSteps n s = .next t) : EmitsWithin s t := by
  induction n generalizing s with
  | zero =>
    cases h
    exact .of_idle le_rfl rfl rfl
  | succ n ih =>
    rw [runSteps_succ] at h
    obtain ⟨u, hu, ht⟩ := andThen_eq_next.1 h
    exact (step_emitsWithin hu).trans (ih ht)

/-! ### The cells of the table, read off the next state (R53) -/

theorem exec_byte_cell_zero (h : exec (decodeByteOp s.idx b) s = .next t) (hidx : s.idx = 0#3) :
    t.idx = (if b = 0xFE#8 then 1#3 else 0#3) ∧ t.typ = s.typ ∧ t.buf = s.buf := by
  rw [hidx, exec_byte_zero] at h
  cases h
  split <;> simp [hidx]

theorem exec_byte_cell_one (h : exec (decodeByteOp s.idx b) s = .next t) (hidx : s.idx = 1#3) :
    t.idx = 2#3 ∧ t.typ = b ∧ t.buf = s.buf := by
  rw [hidx, exec_byte_one] at h
  cases h
  exact ⟨rfl, rfl, rfl⟩

theorem exec_byte_cell_payload {k : Fin Config.payloadLen} (h : exec (decodeByteOp s.idx b) s = .next t)
    (hidx : s.idx.toNat = k.val + 2) : t.idx.toNat = k.val + 3 ∧ t.typ = s.typ
      ∧ Memory.load t.buf k.val = some b ∧ Memory.fill t.buf = k.val + 1
      ∧ ∀ a, a < k.val → Memory.load t.buf a = Memory.load s.buf a := by
  have hk : k.val < 4 := k.isLt
  have hframe : s.idx = frameIdx (k.val + 2) :=
    BitVec.eq_of_toNat_eq (hidx.trans (toNat_frameIdx (by omega)).symm)
  rw [hframe, exec_byte_payload] at h
  cases h
  exact ⟨toNat_frameIdx (by omega), rfl, Memory.load_store_same .., Memory.fill_store ..,
    fun _ ha => Memory.load_store_below _ _ _ ha⟩

theorem exec_byte_cell_absorb (h : exec (decodeByteOp s.idx b) s = .next t) (hidx : s.idx = 6#3) (hb : b ≠ 0xFF#8) :
    t.idx = 6#3 ∧ t.typ = s.typ ∧ t.buf = s.buf := by
  rw [hidx, exec_byte_six_of_ne hb] at h
  cases h
  exact ⟨hidx, rfl, rfl⟩

/-! ### The step that accepts a byte -/

/-- The state in which the operation of the byte on offer is run, the inputs `rest` still to come. -/
def taking (rest : List Input) (s : State) : State :=
  beginStep Signals.byteOffer (beginConnection Signals.byteOffer { s with inputs := rest })

/-- A byte offered and nothing else, in a state that is not halted, is accepted: its operation is run. -/
theorem step_of_byteOffer (hin : s.inputs = .ports Signals.byteOffer :: rest) (hb : s.stream.head? = some b)
    (hh : s.halted = false) : step s = exec (decodeByteOp s.idx b) (taking rest s) := by
  rw [step_of_ports hin, decodeStep_stepWord, taking]
  simp [offered, hb, hh, Signals.byteOffer, Signals.none]

end Sys2Proof.Machine

open Sys2Proof Sys2Proof.Machine

/-- Settles O26, by induction over the run: every step emits within the bytes it consumes. -/
theorem emissionsAreBounded : Obligations.EmissionsAreBounded := fun _ _ _ h => runSteps_emitsWithin h

/-- Settles O18: the word as it stands, and the operation's effect. -/
theorem syncHitEffect : Obligations.SyncHitEffect := ⟨rfl, fun _ => rfl⟩

/-- Settles O19: the word is that of a byte step at `idx` 0. -/
theorem syncSkipEffect : Obligations.SyncSkipEffect :=
  ⟨fun b hb => (decodeStep_encodeByteStep 0#3 b).trans (if_neg hb), fun _ _ => rfl⟩

/-- Settles O20: the word is that of a byte step at `idx` 1. -/
theorem typeByteEffect : Obligations.TypeByteEffect :=
  ⟨fun b => decodeStep_encodeByteStep 1#3 b, fun _ _ => rfl⟩

/-- Settles O21: the words are those of byte steps at `idx` 2 to 5; the buffer is read by the laws of a store. -/
theorem payloadByteEffect : Obligations.PayloadByteEffect :=
  ⟨fun b => ⟨decodeStep_encodeByteStep 2#3 b, decodeStep_encodeByteStep 3#3 b, decodeStep_encodeByteStep 4#3 b,
      decodeStep_encodeByteStep 5#3 b⟩,
    fun _ _ => ⟨rfl, rfl, rfl, rfl⟩, Memory.load_store, Memory.fill_store⟩

/-- Settles O23: the word is that of a byte step at `idx` 6. -/
theorem endAbsorbEffect : Obligations.EndAbsorbEffect :=
  ⟨fun b hb => (decodeStep_encodeByteStep 6#3 b).trans (if_neg hb), fun _ _ => rfl⟩

/-- Settles O24: the cell of END.HIT goes on by R78's premise and is read off its effect; every other cell has a next
state, read off row by row. -/
theorem framerTable : Obligations.FramerTable := by
  intro s rest b hin hb hh hidx hreturns
  rw [step_of_byteOffer hin hb hh]
  by_cases hend : s.idx = 6#3 ∧ b = 0xFF#8
  case pos =>
    obtain ⟨hn, rfl⟩ := id hend
    obtain ⟨t, ht⟩ := execEndHit_of_handlerReturns (s := taking rest s) (hreturns hn rfl)
    obtain ⟨hhalted, hinputs, hstream, htidx, htbuf, htrace, hcalls⟩ := execEndHit_cell ht
    refine ⟨t, hn ▸ ht, hhalted.trans hh, hinputs, hstream, absurd hend, by simp [hn], by simp [hn],
      fun k hk => ?payload, fun _ _ => ⟨htidx, htbuf, htrace, rfl, fun _ _ _ _ => decodedMsg_value_of_load, ?calls⟩,
      by simp⟩
    case payload =>
      have hlt : k.val < 4 := k.isLt
      have hsix : s.idx.toNat = 6 := congrArg BitVec.toNat hn
      omega
    case calls =>
      refine hcalls.trans (congrArg (s.seen.calls ++ ·) ?_)
      cases hfind : Registry.find s.host.registry (s.typ.toNat : Int) with
      | none => exact endHitCalls_of_none hfind
      | some handler => exact endHitCalls_of_some hfind
  case neg =>
    obtain ⟨t, ht, hquiet⟩ := exec_byte_quiet (s := taking rest s) hidx hend
    obtain ⟨hhalted, hinputs, hstream, hseen⟩ := hquiet.frame
    exact ⟨t, ht, hhalted.trans hh, hinputs, hstream,
      fun _ => ⟨congrArg Observed.trace hseen, congrArg Observed.calls hseen⟩,
      exec_byte_cell_zero (s := taking rest s) ht, exec_byte_cell_one (s := taking rest s) ht,
      fun _ => exec_byte_cell_payload (s := taking rest s) ht, fun hn hbend => absurd ⟨hn, hbend⟩ hend,
      exec_byte_cell_absorb (s := taking rest s) ht⟩

end

section
/-! PROOFS. What the decoder makes of a payload: the operations run alone (R66, R67), the value taken apart into its four
bytes (R66), and the two integer readings of the value (R68). -/

namespace Sys2Proof.Machine

/-! ### The decode operations -/

theorem bufByte_of_load {s : State} {k : Nat} {b : Byte} (h : Memory.load s.buf k = some b) : bufByte s k = b := by
  simp [bufByte, h]

theorem exec_decBe32 (t : Byte) (s : State) : exec (.decBe32 t) s =
    .next (driveDecoder ⟨t, be32 (bufByte s 0) (bufByte s 1) (bufByte s 2) (bufByte s 3)⟩ s) := rfl

theorem exec_decZero (t : Byte) (s : State) : exec (.decZero t) s = .next (driveDecoder ⟨t, 0#32⟩ s) := rfl

/-! ### The payload of a value -/

theorem decodeValue_of_known {t : Byte} (h : t = 0#8 ∨ t = 1#8) (b0 b1 b2 b3 : Byte) :
    decodeValue t b0 b1 b2 b3 = be32 b0 b1 b2 b3 :=
  (decodeValue_eq_ite ..).trans (if_pos h)

/-- The four bytes of a value, most significant first. -/
def valueBytes (v : Value) : Byte × Byte × Byte × Byte :=
  (v.extractLsb' 24 8, v.extractLsb' 16 8, v.extractLsb' 8 8, v.extractLsb' 0 8)

theorem be32_valueBytes (v : Value) :
    be32 (valueBytes v).1 (valueBytes v).2.1 (valueBytes v).2.2.1 (valueBytes v).2.2.2 = v :=
  calc be32 (v.extractLsb' 24 8) (v.extractLsb' 16 8) (v.extractLsb' 8 8) (v.extractLsb' 0 8)
      = v.extractLsb' 24 8 ++ v.extractLsb' 16 8 ++ v.extractLsb' 8 8 ++ v.extractLsb' 0 8 := be32_eq_append ..
    _ = v.extractLsb' 0 32 := by simp only [BitVec.extractLsb'_append_extractLsb'_eq_extractLsb']
    _ = v := BitVec.extractLsb'_eq_self

/-- The four bytes are the digits of the value to the base 256. -/
theorem valueBytes_be32 (b0 b1 b2 b3 : Byte) : valueBytes (be32 b0 b1 b2 b3) = (b0, b1, b2, b3) := by
  have h0 : b0.toNat < 256 := b0.isLt
  have h1 : b1.toNat < 256 := b1.isLt
  have h2 : b2.toNat < 256 := b2.isLt
  have h3 : b3.toNat < 256 := b3.isLt
  simp only [valueBytes, Prod.mk.injEq, ← BitVec.toNat_inj, BitVec.extractLsb'_toNat, toNat_be32,
    Nat.shiftRight_eq_div_pow]
  omega

/-! ### The two integer readings -/

theorem readValue_unsigned (v : Value) : readValue .unsigned v = (v.toNat : Int) := rfl

theorem readValue_signed (v : Value) :
    readValue .signed v = if v.getLsbD 31 = true then (v.toNat : Int) - 2 ^ 32 else (v.toNat : Int) :=
  calc v.toInt
      = if v.msb = true then (v.toNat : Int) - (2 ^ 32 : Nat) else (v.toNat : Int) := BitVec.toInt_eq_msb_cond v
    _ = if v.getLsbD 31 = true then (v.toNat : Int) - 2 ^ 32 else (v.toNat : Int) := by
        rw [BitVec.msb_eq_getLsbD_last]
        rfl

theorem readValue_signed_eq_unsigned_iff (v : Value) :
    readValue .signed v = readValue .unsigned v ↔ v.getLsbD 31 = false := by
  rw [readValue_signed, readValue_unsigned]
  cases v.getLsbD 31 <;> simp

/-- A byte below 0x80 has bit 7 clear. -/
theorem getLsbD_seven_of_lt {b : Byte} (h : b.toNat < 0x80) : b.getLsbD 7 = false := by
  have hmsb : b.msb = false := BitVec.msb_eq_false_iff_two_mul_lt.2 (Nat.mul_lt_mul_of_pos_left h Nat.two_pos)
  exact (BitVec.msb_eq_getLsbD_last b).symm.trans hmsb

end Sys2Proof.Machine

open Sys2Proof Sys2Proof.Machine

/-- Settles O30: the operations as they stand; a buffer byte that is defined is the one read. -/
theorem decoderEffect : Obligations.DecoderEffect := by
  refine ⟨fun t s => ⟨_, exec_decBe32 t s, fun b0 b1 b2 b3 h0 h1 h2 h3 => ?value⟩, exec_decZero⟩
  rw [bufByte_of_load h0, bufByte_of_load h1, bufByte_of_load h2, bufByte_of_load h3, be32_eq_append]

/-- Settles O31: the one payload of a value is its four bytes. -/
theorem payloadMapIsBijective : Obligations.PayloadMapIsBijective := by
  intro t ht v
  simp only [decodeValue_of_known ht]
  refine ⟨valueBytes v, be32_valueBytes v, ?unique⟩
  rintro ⟨b0, b1, b2, b3⟩ rfl
  exact (valueBytes_be32 b0 b1 b2 b3).symm

/-- Settles O33: the readings by bit 31, which is that of the first byte of a payload. -/
theorem valueReadings : Obligations.ValueReadings := by
  refine ⟨fun v => ⟨readValue_unsigned v, Int.natCast_nonneg _, Int.le_sub_one_of_lt (Int.ofNat_lt.2 v.isLt),
    readValue_signed v, BitVec.le_toInt v, BitVec.toInt_le, readValue_signed_eq_unsigned_iff v⟩,
    fun b0 b1 b2 b3 hb => ?below, rfl⟩
  have hbit : (be32 b0 b1 b2 b3).getLsbD 31 = false := (getLsbD_be32_31 ..).trans (getLsbD_seven_of_lt hb)
  rw [← be32_eq_append]
  exact (readValue_signed_eq_unsigned_iff _).2 hbit

end

section
/-! PROOFS. The host's side of a dispatch (R73 to R78): what the registry reads after a registration, and an END.HIT
that calls a handler, whether the handler returns or stops the run. -/

namespace Sys2Proof.Machine

variable {s t : State} {handler : Nat} {r : HandlerRun} {rs : List HandlerRun}

/-! ### The registry after a registration (R73) -/

theorem Registry.find_cons (k key : Int) (handler : Nat) (reg : Registry) :
    Registry.find ((k, handler) :: reg) key = if k = key then some handler else Registry.find reg key := rfl

/-- After a registration its key reads the new handler and every other key reads as before, whatever the order of the
keys. -/
theorem Registry.find_set (reg : Registry) (key other : Int) (handler : Nat) :
    Registry.find (Registry.set reg key handler) other
      = if key = other then some handler else Registry.find reg other := by
  induction reg with
  | nil => rfl
  | cons e reg ih =>
    obtain ⟨k, g⟩ := e
    rw [Registry.set]
    split
    · -- the key is new, below those listed
      rw [Registry.find_cons]
    · split
      · -- the key is listed first
        rename_i _ hkey
        subst hkey
        rw [Registry.find_cons, Registry.find_cons]
        split_ifs <;> rfl
      · -- the key goes further down
        rename_i _ hkey
        rw [Registry.find_cons, Registry.find_cons, ih]
        split_ifs with hk ho
        · exact absurd (ho.trans hk.symm) hkey
        all_goals rfl

/-! ### An END.HIT that calls a handler (R61, R74) -/

theorem afterHandler_of_nil (h : s.host.handlerRuns = []) : afterHandler s = s := by
  simp only [afterHandler, h]

theorem afterHandler_of_cons (h : s.host.handlerRuns = r :: rs) :
    afterHandler s = afterCalls r.acts { s with host := { s.host with handlerRuns := rs } } := by
  simp only [afterHandler, h]

/-- The state in which END.HIT runs a called handler: the message emitted and the call recorded. -/
def handlerCalled (handler : Nat) (s : State) : State :=
  recordCall handler (decodedMsg s.typ s).value (emitted s)

@[simp] theorem handlerCalled_host (handler : Nat) (s : State) : (handlerCalled handler s).host = s.host := rfl

/-- The state in which the called handler makes its own calls: its run is no longer listed. -/
def handlerEntry (handler : Nat) (rs : List HandlerRun) (s : State) : State :=
  { handlerCalled handler s with host := { s.host with handlerRuns := rs } }

/-- An END.HIT of a registered type runs the handler and re-arms. -/
theorem execEndHit_of_find (hfind : Registry.find s.host.registry (s.typ.toNat : Int) = some handler) :
    execEndHit s = andThen (runHandler (handlerCalled handler s)) (fun t => .next (rearm t)) := by
  have hdispatch : dispatch (decodedMsg s.typ s) (emitted s) = runHandler (handlerCalled handler s) := by
    have hf : Registry.find (emitted s).host.registry ((decodedMsg s.typ s).type.toNat : Int) = some handler := hfind
    simp only [dispatch, hf, handlerCalled]
  exact congrArg (andThen · (fun t => .next (rearm t))) hdispatch

theorem execEndHit_eq_afterHandler (hfind : Registry.find s.host.registry (s.typ.toNat : Int) = some handler)
    (h : execEndHit s = .next t) : t = rearm (afterHandler (handlerCalled handler s)) := by
  rw [execEndHit_of_find hfind] at h
  obtain ⟨u, hu, ht⟩ := andThen_eq_next.1 h
  cases ht
  exact congrArg rearm (runHandler_eq_afterHandler hu)

/-- A handler whose run is listed makes the calls of the run, and ends as it does. -/
theorem execEndHit_of_run (hfind : Registry.find s.host.registry (s.typ.toNat : Int) = some handler)
    (hruns : s.host.handlerRuns = r :: rs) :
    execEndHit s = andThen (andThen (handlerCalls r.acts (handlerEntry handler rs s)) (finishHandler r.ending))
      (fun t => .next (rearm t)) := by
  rw [execEndHit_of_find hfind]
  simp only [runHandler, handlerCalled_host, hruns, handlerEntry]

/-! ### A handler that stops the run (R78, R103, R118) -/

/-- The first call that is refused stops the handler. -/
theorem handlerCalls_of_refused {xs ys : List HostCall} {c : HostCall} {f : Refusal}
    (hxs : xs.all HostCall.allowed = true) (hc : ∀ u, handlerCall c u = .refused f) (s : State) :
    handlerCalls (xs ++ c :: ys) s = .refused f := by
  induction xs generalizing s with
  | nil => rw [List.nil_append, handlerCalls, hc, andThen_refused]
  | cons x xs ih =>
    rw [List.all_cons, Bool.and_eq_true] at hxs
    obtain ⟨hx, hxs⟩ := hxs
    obtain ⟨u, hu⟩ := handlerCall_of_allowed hx s
    rw [List.cons_append, handlerCalls, hu, andThen_next, ih hxs]

/-- A handler whose calls all have a meaning comes to its end. -/
theorem execEndHit_of_allowed (hfind : Registry.find s.host.registry (s.typ.toNat : Int) = some handler)
    (hruns : s.host.handlerRuns = r :: rs) (hacts : r.acts.all HostCall.allowed = true) :
    ∃ u, execEndHit s = andThen (finishHandler r.ending u) (fun t => .next (rearm t)) := by
  obtain ⟨u, hu⟩ := handlerCalls_of_allowed hacts (handlerEntry handler rs s)
  exact ⟨u, by rw [execEndHit_of_run hfind hruns, hu, andThen_next]⟩

/-- A handler whose first call without a meaning is refused makes the END.HIT refused by the same name. -/
theorem execEndHit_of_refused {xs ys : List HostCall} {c : HostCall} {f : Refusal}
    (hfind : Registry.find s.host.registry (s.typ.toNat : Int) = some handler)
    (hruns : s.host.handlerRuns = r :: rs) (hacts : r.acts = xs ++ c :: ys)
    (hxs : xs.all HostCall.allowed = true) (hc : ∀ u, handlerCall c u = .refused f) :
    execEndHit s = .refused f := by
  rw [execEndHit_of_run hfind hruns, hacts, handlerCalls_of_refused hxs hc, andThen_refused, andThen_refused]

end Sys2Proof.Machine

open Sys2Proof Sys2Proof.Machine

/-- Settles O34: the call is REGISTER, and the registry reads its handler for its key only. -/
theorem lastRegistrationWins : Obligations.LastRegistrationWins := by
  intro s rest key handler hin
  refine ⟨Registry.set s.host.registry key handler, _, step_of_call hin, ?same, fun other hother => ?others⟩
  case same => rw [Registry.find_set, if_pos rfl]
  case others => rw [Registry.find_set, if_neg hother.symm]

/-- Settles O35: the calls of an END.HIT that goes on, by whether a handler is registered. -/
theorem dispatchCallsTheRegisteredHandler : Obligations.DispatchCallsTheRegisteredHandler := by
  intro s t h
  obtain ⟨-, -, -, -, -, -, hcalls⟩ := execEndHit_cell h
  rw [hcalls]
  split
  · rename_i handler hfind
    rw [endHitCalls_of_some hfind]
  · rename_i hfind
    rw [endHitCalls_of_none hfind]

/-- Settles O36: the END.HIT goes on by R78's premise, and what is left is what the handler's run left. -/
theorem handlerRunEffect : Obligations.HandlerRunEffect := by
  intro s handler hs hfind
  obtain ⟨t, ht⟩ := execEndHit_of_handlerReturns hs
  obtain rfl := execEndHit_eq_afterHandler hfind ht
  refine ⟨_, ht, ?opens, fun hruns => ?unlisted, fun r rs hruns => ?listed⟩
  case opens =>
    obtain ⟨_, _, _, hframe⟩ := afterHandler_frame (handlerCalled handler s)
    rw [hframe]
    rfl
  case unlisted =>
    rw [afterHandler_of_nil (s := handlerCalled handler s) hruns]
    exact ⟨rfl, rfl⟩
  case listed =>
    rw [afterHandler_of_cons (s := handlerCalled handler s) hruns]
    exact ⟨rfl, rfl⟩

/-- Settles O38: a handler whose calls have a meaning ends by its own end, and otherwise the first call without a
meaning stops it. -/
theorem handlersThatDoNotReturn : Obligations.HandlersThatDoNotReturn := by
  intro s handler r rs hfind hruns
  refine ⟨fun hacts hend => ?throws, fun hacts hend => ?neverReturns, fun xs ys hacts hxs => ?closes,
    fun xs baud ys hacts hxs => ?connects⟩
  case throws =>
    obtain ⟨u, hu⟩ := execEndHit_of_allowed hfind hruns hacts
    rwa [hend] at hu
  case neverReturns =>
    obtain ⟨u, hu⟩ := execEndHit_of_allowed hfind hruns hacts
    rwa [hend] at hu
  case closes => exact execEndHit_of_refused hfind hruns hacts hxs fun _ => rfl
  case connects => exact execEndHit_of_refused hfind hruns hacts hxs fun _ => rfl

end

section
/-! PROOFS. The parser apart from the host's side: the message port is driven by END.HIT only (R70), and a step does the
same to the parser whatever the host's side is (R77). -/

namespace Sys2Proof.Machine

variable {s s' t u : State} {i : Instr}

/-! ### The message port (R70) -/

theorem execEndHit_message (h : execEndHit s = .next t) :
    t.out.msg = some (decodedMsg s.typ s) ∧ t.seen.trace = s.seen.trace ++ [decodedMsg s.typ s] := by
  obtain ⟨_, _, _, rfl, -⟩ := execEndHit_effect h
  exact ⟨rfl, rfl⟩

/-- No operation but END.HIT drives the message port or adds to the trace. -/
theorem exec_quiet (h : exec i s = .next t) (hi : i ≠ .endHit) :
    t.out.msg = s.out.msg ∧ t.seen.trace = s.seen.trace := by
  cases i
  case endHit => exact absurd rfl hi
  case reservedIdx7 => cases h
  all_goals
    cases h
    exact ⟨rfl, rfl⟩

/-- A step that does not run END.HIT leaves the port idle, since every step begins with idle ports. -/
theorem step_quiet (h : step s = .next t)
    (hq : ∀ p rest, s.inputs = .ports p :: rest → decodeStep (stepWord p s) ≠ .endHit) :
    t.out.msg = none ∧ t.seen.trace = s.seen.trace := by
  match hin : s.inputs with
  | [] =>
    rw [step_of_nil hin, decodeStep_stepWord_none] at h
    exact exec_quiet h (by split <;> simp)
  | .ports p :: rest => exact exec_quiet (step_of_ports hin ▸ h) (hq p rest hin)
  | .decoder :: rest =>
    rw [step_of_decoder hin, exec_decodeType8_eq] at h
    cases h
    exact ⟨rfl, rfl⟩
  | .call c :: rest =>
    obtain ⟨-, -, -, -, -, htrace, -, -, -, hmsg, -, -⟩ := hostCallsLeaveTheParser s t c rest hin h
    exact ⟨hmsg, htrace⟩

/-! ### The parser's part of a state (R77) -/

/-- `s` without its host: nothing presented, the host's side as at reset, and of what may be observed only the messages
and the pulses. -/
def parserOnly (s : State) : State :=
  { s with
    inputs := [], host := State.reset.host
    seen := { s.seen with calls := [], sent := [], opens := [] } }

/-- An operation that goes on goes on without the host as well, and does the same to the parser. For END.HIT, with no
handler registered the message is dropped, and what a handler did is on the host's side only. -/
theorem exec_parserOnly (h : exec i s = .next t) :
    ∃ v, exec i (parserOnly s) = .next v ∧ parserOnly v = parserOnly t := by
  cases i
  case endHit =>
    obtain ⟨_, _, _, rfl, -⟩ := execEndHit_effect h
    exact ⟨_, rfl, rfl⟩
  case reservedIdx7 => cases h
  all_goals
    cases h
    exact ⟨_, rfl, rfl⟩

/-- What an operation does to the parser is a function of the parser. -/
theorem exec_parserOnly_congr (ht : exec i s = .next t) (hu : exec i s' = .next u)
    (hs : parserOnly s = parserOnly s') : parserOnly t = parserOnly u := by
  obtain ⟨v, hv, htv⟩ := exec_parserOnly ht
  obtain ⟨w, hw, huw⟩ := exec_parserOnly hu
  rw [hs] at hv
  cases hv.symm.trans hw
  exact htv.symm.trans huw

/-- A host call that goes on does nothing to the parser. -/
theorem hostCall_parserOnly {c : HostCall} (h : hostCall c s = .next t) : parserOnly t = parserOnly s := by
  obtain ⟨_, _, _, _, _, rfl, -, -⟩ | ⟨-, rfl⟩ := hostCall_next h
  · rfl
  · rfl

/-- What a step does to the parser does not depend on the host's side: with either host the same operation or call is
presented to the same parser. -/
theorem step_parserOnly_congr (host : HostSide) (ht : step s = .next t)
    (hu : step { s with host := host } = .next u) : parserOnly t = parserOnly u := by
  match hin : s.inputs with
  | [] =>
    rw [step_of_nil hin] at ht
    rw [step_of_nil (s := { s with host := host }) hin] at hu
    exact exec_parserOnly_congr ht hu rfl
  | .ports p :: rest =>
    rw [step_of_ports hin] at ht
    rw [step_of_ports (s := { s with host := host }) hin] at hu
    exact exec_parserOnly_congr ht hu rfl
  | .decoder :: rest =>
    rw [step_of_decoder hin] at ht
    rw [step_of_decoder (s := { s with host := host }) hin] at hu
    exact exec_parserOnly_congr ht hu rfl
  | .call c :: rest =>
    rw [step_of_call hin] at ht
    rw [step_of_call (s := { s with host := host }) hin] at hu
    exact (hostCall_parserOnly ht).trans (hostCall_parserOnly hu).symm

end Sys2Proof.Machine

open Sys2Proof Sys2Proof.Machine

/-- Settles O25: a step runs END.HIT on control inputs, whose message is the port's, or it is quiet. -/
theorem messageOnlyAtEndHit : Obligations.MessageOnlyAtEndHit := by
  intro s t h
  by_cases hend : ∃ p rest, s.inputs = .ports p :: rest ∧ decodeStep (stepWord p s) = .endHit
  · obtain ⟨p, rest, hin, hop⟩ := hend
    rw [step_of_ports hin, hop] at h
    have hport := execEndHit_message h
    exact .inl ⟨p, rest, hin, hop, hport⟩
  · have hq : ∀ p rest, s.inputs = .ports p :: rest → decodeStep (stepWord p s) ≠ .endHit :=
      fun p rest hin hop => hend ⟨p, rest, hin, hop⟩
    obtain ⟨hmsg, htrace⟩ := step_quiet h hq
    exact .inr ⟨hmsg, htrace, hq⟩

/-- Settles O37: the two next states have the same parser, and every field named is the parser's. -/
theorem handlersCannotTouchTheParser : Obligations.HandlersCannotTouchTheParser := by
  intro s t u host ht hu
  have hp : parserOnly t = parserOnly u := step_parserOnly_congr host ht hu
  exact ⟨congrArg (·.idx) hp, congrArg (·.typ) hp, congrArg (·.buf) hp, congrArg (·.halted) hp,
    congrArg (·.stream) hp, congrArg (·.out) hp, congrArg (·.seen.trace) hp, congrArg (·.seen.closeReqs) hp,
    congrArg (·.seen.rdReleases) hp⟩

end

section
/-! PROOFS. The pulses of a run (R85, 90 C8): only ERR and EOS pulse, both need a block that is not halted, and
without a reset it is halted once. -/

namespace Sys2Proof.Machine

variable {s t u : State} {p : Signals} {i : Instr}

/-! ### The pulses (R84, R85) -/

/-- No operation but ERR and EOS pulses. -/
theorem exec_pulses (h : exec i s = .next t) (hi : ¬ (i = .err ∨ i = .eos)) :
    t.out.closeReq = s.out.closeReq ∧ t.out.rdRelease = s.out.rdRelease
      ∧ t.seen.closeReqs = s.seen.closeReqs ∧ t.seen.rdReleases = s.seen.rdReleases := by
  cases i
  case err | eos => simp at hi
  case endHit =>
    obtain ⟨_, _, _, rfl, -⟩ := execEndHit_effect h
    exact ⟨rfl, rfl, rfl, rfl⟩
  case reservedIdx7 => cases h
  all_goals
    cases h
    exact ⟨rfl, rfl, rfl, rfl⟩

/-- The next input halts the block: an error or an end-of-stream, without a reset, in a state that is not halted. -/
def State.haltsNext (s : State) : Prop :=
  ∃ p rest, s.inputs = .ports p :: rest ∧ p.rst = false ∧ s.halted = false ∧ (p.err = true ∨ p.eos = true)

/-- A step that does not halt the block pulses nothing, since every step begins with idle ports. -/
theorem step_pulses (h : step s = .next t) (hq : ¬ s.haltsNext) :
    t.out.closeReq = false ∧ t.out.rdRelease = false
      ∧ t.seen.closeReqs = s.seen.closeReqs ∧ t.seen.rdReleases = s.seen.rdReleases := by
  match hin : s.inputs with
  | [] =>
    rw [step_of_nil hin, decodeStep_stepWord_none] at h
    exact exec_pulses h (by split <;> simp)
  | .ports p :: rest =>
    exact exec_pulses (step_of_ports hin ▸ h) fun hop =>
      hq ⟨p, rest, hin, (decodeStep_stepWord_halts p s).1 hop⟩
  | .decoder :: rest =>
    rw [step_of_decoder hin, exec_decodeType8_eq] at h
    cases h
    exact ⟨rfl, rfl, rfl, rfl⟩
  | .call c :: rest =>
    obtain ⟨-, -, -, -, -, -, -, hclose, hrelease, -, hcport, hrport⟩ := hostCallsLeaveTheParser s t c rest hin h
    exact ⟨hcport, hrport, hclose, hrelease⟩

theorem not_haltsNext_of_halted (hh : s.halted = true) : ¬ s.haltsNext := by
  rintro ⟨_, _, _, _, hn, _⟩
  simp [hn] at hh

/-! ### The halts of a run without a reset (R85, 90 C8) -/

/-- What is still presented holds no reset. -/
def NoReset (s : State) : Prop := ∀ p, Input.ports p ∈ s.inputs → p.rst = false

theorem NoReset.not_resetsNext (hs : NoReset s) : ¬ s.resetsNext := by
  rintro ⟨p, rest, hin, hr⟩
  have hnr : p.rst = false := hs p (by simp [hin])
  simp [hnr] at hr

/-- A step takes its input; a close by the host presents an end-of-stream in its place (R85 (c)). -/
theorem step_inputs (h : step s = .next t) :
    t.inputs = s.inputs.tail ∨ t.inputs = .ports Signals.endOfStream :: s.inputs.tail := by
  match hin : s.inputs with
  | [] =>
    obtain ⟨hinputs, -⟩ := exec_inputs_stream (step_of_nil hin ▸ h)
    exact .inl (hinputs.trans hin)
  | .ports p :: rest =>
    obtain ⟨hinputs, -⟩ := exec_inputs_stream (step_of_ports hin ▸ h)
    exact .inl hinputs
  | .decoder :: rest =>
    obtain ⟨hinputs, -⟩ := exec_inputs_stream (step_of_decoder hin ▸ h)
    exact .inl hinputs
  | .call c :: rest =>
    rw [step_of_call hin] at h
    obtain ⟨_, _, _, _, _, rfl, -, -⟩ | ⟨-, rfl⟩ := hostCall_next h
    · exact .inl rfl
    · exact .inr rfl

/-- No step brings in a reset. -/
theorem NoReset.of_step (hs : NoReset s) (h : step s = .next t) : NoReset t := by
  have htail : ∀ p, Input.ports p ∈ s.inputs.tail → p.rst = false := fun p hp => hs p (List.mem_of_mem_tail hp)
  intro p hp
  rcases step_inputs h with hin | hin
  · exact htail p (hin ▸ hp)
  · rw [hin] at hp
    rcases List.mem_cons.1 hp with hhead | hmem
    · cases hhead
      rfl
    · exact htail p hmem

/-- The halts still open to a run without a reset: one, or none when halted already. -/
def haltsLeft (s : State) : Nat := if s.halted = true then 0 else 1

theorem haltsLeft_of_halted (hh : s.halted = true) : haltsLeft s = 0 := if_pos hh
theorem haltsLeft_of_running (hh : s.halted = false) : haltsLeft s = 1 := if_neg (by simp [hh])

/-- From `s` to `t` every close request and every handle release is paid for by a halt that was still open. -/
def PulsesWithin (s t : State) : Prop :=
  t.seen.closeReqs + haltsLeft t ≤ s.seen.closeReqs + haltsLeft s
    ∧ t.seen.rdReleases + haltsLeft t ≤ s.seen.rdReleases + haltsLeft s

theorem PulsesWithin.trans (h : PulsesWithin s t) (g : PulsesWithin t u) : PulsesWithin s u :=
  ⟨g.1.trans h.1, g.2.trans h.2⟩

/-- ERR and EOS use up the one halt, and pulse each port at most once. -/
theorem takeHalt_pulsesWithin (c : HaltCause) (hh : s.halted = false) : PulsesWithin s (takeHalt c s) := by
  rw [PulsesWithin, haltsLeft_of_running hh, haltsLeft_of_halted (takeHalt_halted s c)]
  cases c with
  | eos => exact ⟨le_rfl, le_rfl⟩
  | err => exact ⟨Nat.le_succ _, le_rfl⟩

/-- A step without a reset halts the block once, or pulses nothing and leaves it halted if it was. -/
theorem step_pulsesWithin (h : step s = .next t) (hr : ¬ s.resetsNext) : PulsesWithin s t := by
  by_cases hhalt : s.haltsNext
  case pos =>
    obtain ⟨p, rest, hin, hev⟩ := hhalt
    obtain ⟨-, hh, -⟩ := id hev
    rw [step_of_ports hin] at h
    rcases (decodeStep_stepWord_halts p s).2 hev with hop | hop
    · rw [hop] at h
      cases h
      exact takeHalt_pulsesWithin (s := beginStep p (beginConnection p { s with inputs := rest })) .err hh
    · rw [hop] at h
      cases h
      exact takeHalt_pulsesWithin (s := beginStep p (beginConnection p { s with inputs := rest })) .eos hh
  case neg =>
    obtain ⟨-, -, hclose, hrelease⟩ := step_pulses h hhalt
    obtain ⟨-, -, -, hheld⟩ := haltedIsLeftByResetOnly s t h
    have hleft : haltsLeft t ≤ haltsLeft s := by
      cases hh : s.halted with
      | true =>
        obtain ⟨ht, -⟩ := hheld hh hr
        simp [haltsLeft_of_halted ht]
      | false =>
        rw [haltsLeft_of_running hh, haltsLeft]
        split <;> simp
    rw [PulsesWithin, hclose, hrelease]
    exact ⟨Nat.add_le_add_left hleft _, Nat.add_le_add_left hleft _⟩

theorem runSteps_pulsesWithin {n : Nat} (h : runSteps n s = .next t) (hs : NoReset s) : PulsesWithin s t := by
  induction n generalizing s with
  | zero =>
    cases h
    exact ⟨le_rfl, le_rfl⟩
  | succ n ih =>
    rw [runSteps_succ] at h
    obtain ⟨v, hv, ht⟩ := andThen_eq_next.1 h
    exact (step_pulsesWithin hv hs.not_resetsNext).trans (ih ht (hs.of_step hv))

end Sys2Proof.Machine

open Sys2Proof Sys2Proof.Machine

/-- Settles O50, by induction over the run: a step without a reset uses up the one halt or pulses nothing, and it brings
in no reset. -/
theorem closeRequestedAtMostOnce : Obligations.CloseRequestedAtMostOnce := by
  intro n s t h hs
  obtain ⟨hclose, hrelease⟩ := runSteps_pulsesWithin h hs
  exact ⟨(Nat.le_add_right _ _).trans hclose, (Nat.le_add_right _ _).trans hrelease⟩

end

section
/-! PROOFS. The ready signal and the stream (R81), the steps that take no byte (R82 to R86), and the host calls
without a meaning (R87, R90, R119). -/

namespace Sys2Proof.Machine

variable {s t u : State} {p : Signals} {rest : List Input} {i : Instr}

/-! ### The ready signal and the byte consumed (R81) -/

theorem inReady_eq_true_iff :
    inReady p s = true ↔ p.rst = false ∧ s.halted = false ∧ p.err = false ∧ p.eos = false := by
  simp [inReady, and_assoc]

/-- The ready signal stays as the step began with it. -/
theorem exec_inReady (h : exec i s = .next t) : t.out.inReady = s.out.inReady := by
  cases i
  case endHit =>
    obtain ⟨_, _, _, rfl, -⟩ := execEndHit_effect h
    rfl
  case reservedIdx7 => cases h
  all_goals
    cases h
    rfl

/-- The operation of an accepted byte consumes it (R34). -/
theorem exec_byte_stream {b : Byte} (h : exec (decodeByteOp s.idx b) s = .next t) : t.stream = s.stream.tail := by
  by_cases hend : s.idx = 6#3 ∧ b = 0xFF#8
  · obtain ⟨hidx, rfl⟩ := hend
    rw [hidx, exec_byte_end] at h
    obtain ⟨-, -, hstream, -⟩ := execEndHit_cell h
    exact hstream
  · obtain ⟨v, hv, hquiet⟩ := exec_byte_quiet (idx_le_six_of_exec_byte h) hend
    cases hv.symm.trans h
    obtain ⟨-, -, hstream, -⟩ := hquiet.frame
    exact hstream

theorem decodeStep_stepWord_of_ready {b : Byte} (hb : offered p s = some b) (hready : inReady p s = true) :
    decodeStep (stepWord p s) = decodeByteOp s.idx b := by
  obtain ⟨hr, hh, he, ho⟩ := inReady_eq_true_iff.1 hready
  simp [decodeStep_stepWord, hr, hh, he, ho, hb]

/-- A step that accepts no byte runs a control operation, which consumes none. -/
theorem exec_stream_of_not_accepted (h : exec (decodeStep (stepWord p s)) u = .next t)
    (hn : offered p s = none ∨ inReady p s = false) : t.stream = u.stream := by
  rw [decodeStep_stepWord] at h
  split_ifs at h with hr hh he ho
  · -- RESET
    cases h
    rfl
  · -- HALTED.HOLD
    cases h
    rfl
  · -- ERR
    cases h
    rfl
  · -- EOS
    cases h
    rfl
  · -- no reset, halt, error or end-of-stream, so no byte is offered: IDLE
    have hready : inReady p s = true := inReady_eq_true_iff.2 (by simp [*])
    rw [hn.resolve_right (by simp [hready])] at h
    cases h
    rfl

/-! ### The steps that take no byte (R82 to R86) -/

/-- A parser step from its operation and its ready signal: the state in which the operation is run, field by field. -/
theorem step_of_op {r : Bool} (hin : s.inputs = .ports p :: rest) (hop : decodeStep (stepWord p s) = i)
    (hready : inReady p s = r) : step s = exec i { s with
      inputs := rest
      host := { s.host with connected := s.host.connected || connectionEvent p s }
      out := { Outputs.quiet with inReady := r } } := by
  rw [step_of_ports hin, hop, ← hready]
  rfl

/-- A step that is no event of a connection leaves the mark as it is (log entry 14). -/
theorem host_of_no_event (h : connectionEvent p s = false) :
    { s.host with connected := s.host.connected || connectionEvent p s } = s.host := by
  rw [h, Bool.or_false]

/-! ### A connect without a meaning (R87, 93 U12) -/

/-- A connect is refused exactly when the connection of the run has begun or the parser is not in the reset state. -/
theorem connect_eq_refused {baud : Nat} :
    connect baud s = .refused .secondConnection ↔ s.host.connected = true ∨ atReset s = false := by
  unfold connect
  cases s.host.connected <;> cases atReset s <;> simp

theorem atReset_eq_false_iff : atReset s = false ↔ s.idx ≠ 0#3 ∨ s.buf ≠ [] ∨ s.halted = true := by
  simp [atReset, imp_iff_not_or, or_assoc]

end Sys2Proof.Machine

open Sys2Proof Sys2Proof.Machine

/-- Settles O10: the ready signal is the one the step began with, and whether a byte is accepted says whether the
operation consumes one. -/
theorem byteConsumedExactlyWhenReady : Obligations.ByteConsumedExactlyWhenReady := by
  intro s t p rest hin h
  rw [step_of_ports hin] at h
  have hready : t.out.inReady = inReady p s := exec_inReady h
  rw [hready]
  refine ⟨inReady_eq_true_iff, by simp [accepts], fun b hb hr => ?accepted,
    fun hn => (exec_stream_of_not_accepted h hn :)⟩
  case accepted =>
    rw [decodeStep_stepWord_of_ready hb hr] at h
    obtain ⟨bs, hbs⟩ := List.head?_eq_some_iff.1 (head?_of_offered hb)
    have hstream : t.stream = s.stream.tail :=
      exec_byte_stream (s := beginStep p (beginConnection p { s with inputs := rest })) h
    rw [hstream, hbs, List.tail_cons]

/-- Settles O13: while halted the step is HALTED.HOLD, not ready, and no event of a connection. -/
theorem haltedHoldEffect : Obligations.HaltedHoldEffect := by
  refine ⟨fun _ => rfl, fun s p rest hin hh hr => ?_⟩
  have hready : inReady p s = false := by simp [inReady, hh]
  have hevent : connectionEvent p s = false := by simp [connectionEvent, hh]
  rw [step_of_op hin (decodeStep_stepWord_of_halted hr hh) hready, host_of_no_event hevent]
  rfl

/-- Settles O14: an error comes before an end-of-stream and a byte, and the step is not ready. -/
theorem errEffect : Obligations.ErrEffect := by
  refine ⟨fun _ => rfl, fun s p rest hin hh hr he => ?_⟩
  have hop : decodeStep (stepWord p s) = .err := by simp [decodeStep_stepWord, hr, hh, he]
  have hready : inReady p s = false := by simp [inReady, he]
  exact ⟨_, step_of_op hin hop hready⟩

/-- Settles O15: an end-of-stream comes before a byte, the step is not ready, and a halted block is not halted again. -/
theorem eosEffect : Obligations.EosEffect := by
  refine ⟨fun _ => rfl, fun s p rest hin hh hr he ho => ?endOfStream,
    fun s t hh h => step_pulses h (not_haltsNext_of_halted hh)⟩
  case endOfStream =>
    have hop : decodeStep (stepWord p s) = .eos := by simp [decodeStep_stepWord, hr, hh, he, ho]
    have hready : inReady p s = false := by simp [inReady, ho]
    exact ⟨_, step_of_op hin hop hready⟩

/-- Settles O16: with no control event and no byte the step is IDLE, ready, and no event of a connection. -/
theorem idleEffect : Obligations.IdleEffect := by
  refine ⟨fun _ => rfl, fun s p rest hin hh hr he ho hb => ?_⟩
  have hop : decodeStep (stepWord p s) = .idle := by simp [decodeStep_stepWord, hr, hh, he, ho, hb]
  have hready : inReady p s = true := inReady_eq_true_iff.2 ⟨hr, hh, he, ho⟩
  have hevent : connectionEvent p s = false := by simp [connectionEvent, he, ho, hb]
  rw [step_of_op hin hop hready, host_of_no_event hevent]
  rfl

/-- Settles O52: the call presents an end-of-stream, and the next step is EOS or HALTED.HOLD. -/
theorem hostCloseIsEndOfStream : Obligations.HostCloseIsEndOfStream := by
  intro s rest hin
  obtain ⟨-, heos, -⟩ := eosEffect
  obtain ⟨-, hhold⟩ := haltedHoldEffect
  exact ⟨_, _, step_of_call hin, rfl, fun hh => heos _ Signals.endOfStream rest rfl hh rfl rfl rfl,
    fun hh => hhold _ Signals.endOfStream rest rfl hh rfl⟩

/-- Settles O12: a reset comes before everything else, and the step is not ready. -/
theorem resetEffect : Obligations.ResetEffect := by
  refine ⟨fun _ => ⟨_, _, _, rfl⟩, fun s p rest hin hr => ?_⟩
  have hready : inReady p s = false := by simp [inReady, hr]
  exact ⟨_, _, _, step_of_op hin ((decodeStep_stepWord_eq_reset p s).2 hr) hready⟩

/-- Settles O40: each call is refused by its own meaning. -/
theorem meaninglessHostCallsAreRefused : Obligations.MeaninglessHostCallsAreRefused := by
  refine ⟨fun s rest k handler hin => step_of_call hin, fun s rest hin => step_of_call hin,
    fun s rest baud hin hc => (step_of_call hin).trans ?connect⟩
  case connect => exact connect_eq_refused.2 (hc.imp_right atReset_eq_false_iff.2)

end

section
/-! PROOFS. The outbound encoder: the frames of ENC.SIMPLE and ENC.PROGRAM (R89, R91), the codes of the command names
(R90), and where the scaling of R92 is defined. -/

namespace Sys2Proof.Machine

/-! ### The two frames, written out -/

theorem simpleFrame_eq (code : Byte) : simpleFrame code = [0xFE#8, code, 0x00#8, 0xFF#8] := rfl

theorem programFrame_eq (a d : Value) (n : Byte) : programFrame a d n = [0xFE#8, 0x04#8, 0x09#8,
    a.extractLsb' 24 8, a.extractLsb' 16 8, a.extractLsb' 8 8, a.extractLsb' 0 8,
    d.extractLsb' 24 8, d.extractLsb' 16 8, d.extractLsb' 8 8, d.extractLsb' 0 8, n, 0xFF#8] := rfl

theorem exec_encSimple (code : Byte) (s : State) :
    exec (.encSimple code) s = .next (transmit (simpleFrame code) s) := rfl

theorem exec_encProgram (a d : Value) (n : Byte) (s : State) :
    exec (.encProgram a d n) s = .next (transmit (programFrame a d n) s) := rfl

/-! ### The command names (R90) -/

/-- The seven names with their codes, as R90 lists them. -/
def namedCodes : List (CommandName × Byte) :=
  [(.stop, 0#8), (.right, 1#8), (.left, 2#8), (.shutter, 3#8), (.start, 4#8), (.pause, 5#8), (.reset, 6#8)]

theorem commandCode_of_mem_namedCodes : ∀ e ∈ namedCodes, commandCode e.1 = some e.2 := by decide

theorem hostCall_sendCommand {name : CommandName} {code : Byte} (h : commandCode name = some code) (s : State) :
    hostCall (.sendCommand name) s = exec (.encSimple code) s := by
  simp only [hostCall, sendNamed, h, exec_encSimple, execEncSimple]

/-! ### The count byte (R91) -/

theorem toNat_countByte (count : Int) : ((countByte count).toNat : Int) = count % 256 := by
  rw [countByte, BitVec.toNat_ofInt]
  exact Int.toNat_of_nonneg (Int.emod_nonneg _ (by decide))

/-- Reduction modulo 256 is the AND with 0xFF. -/
theorem countByte_natCast (count : Nat) : countByte (count : Int) = BitVec.ofNat 8 (count &&& 0xFF) := by
  have hand : count &&& 0xFF = count % 2 ^ 8 := Nat.and_two_pow_sub_one_eq_mod count 8
  rw [countByte, BitVec.ofInt_natCast, hand]
  exact BitVec.eq_of_toNat_eq (by simp)

theorem programCount_eq_none_iff {q : Ratio} : programCount q = none ↔ q.den = 0 := by
  unfold programCount
  split
  · simp [*]
  · split <;> simp [*]

/-- An integer count has its low byte. -/
theorem programCount_of_num_eq_mul {q : Ratio} {n : Int} (hden : q.den ≠ 0) (hn : q.num = n * q.den) :
    programCount q = some (countByte n) := by
  have hden' : (q.den : Int) ≠ 0 := Int.ofNat_ne_zero.2 hden
  rw [programCount, if_neg hden, hn, if_pos (Int.mul_emod_left n q.den), Int.mul_ediv_cancel n hden']

/-! ### The scaling (R92) -/

/-- The exact product with 1000, truncated toward zero. -/
abbrev HostNumber.exactScaled (x : HostNumber) : Int := (x.value.num * 1000).tdiv x.value.den

/-- The host's own product, truncated toward zero. -/
abbrev HostNumber.hostScaled (x : HostNumber) : Int := x.product.num.tdiv x.product.den

/-- The integer `a` is in the domain of R92: both products are numbers and truncate to `a`, and `a` is in 0..2147483647. -/
def HostNumber.scalesTo (x : HostNumber) (a : Int) : Prop :=
  x.value.den ≠ 0 ∧ x.product.den ≠ 0 ∧ x.exactScaled = a ∧ x.hostScaled = a ∧ 0 ≤ a ∧ a ≤ 2147483647

theorem Ratio.trunc_of_den_eq_zero {q : Ratio} (h : q.den = 0) : q.trunc = none := if_pos h

theorem Ratio.trunc_of_den_ne_zero {q : Ratio} (h : q.den ≠ 0) : q.trunc = some (q.num.tdiv q.den) := if_neg h

variable {x y : HostNumber} {count : Ratio}

/-- The scaling of two products that are numbers. -/
theorem scale_of_den_ne_zero (hv : x.value.den ≠ 0) (hp : x.product.den ≠ 0) :
    scale x = if x.exactScaled = x.hostScaled ∧ 0 ≤ x.exactScaled ∧ x.exactScaled ≤ 2147483647
      then some (BitVec.ofInt 32 x.exactScaled) else none := by
  have hexact := Ratio.trunc_of_den_ne_zero (q := ⟨x.value.num * 1000, x.value.den⟩) hv
  simp only [scale, Config.scaleFactor, Config.scaledMax, hexact, Ratio.trunc_of_den_ne_zero hp]

theorem scale_of_scalesTo {a : Int} (h : x.scalesTo a) : scale x = some (BitVec.ofInt 32 a) := by
  obtain ⟨hv, hp, rfl, hsame, hnonneg, hle⟩ := h
  rw [scale_of_den_ne_zero hv hp, if_pos ⟨hsame.symm, hnonneg, hle⟩]

/-- The scaling is undefined exactly where a product is no number, the two disagree, or the integer is out of range. -/
theorem scale_eq_none_iff : scale x = none ↔ x.value.den = 0 ∨ x.product.den = 0
    ∨ x.exactScaled ≠ x.hostScaled ∨ x.exactScaled < 0 ∨ 2147483647 < x.exactScaled := by
  by_cases hv : x.value.den = 0
  · simp [scale, Ratio.trunc_of_den_eq_zero, hv]
  by_cases hp : x.product.den = 0
  · simp [scale, Ratio.trunc_of_den_eq_zero hp, hp]
  simp only [scale_of_den_ne_zero hv hp, hv, hp, false_or, ite_eq_right_iff, reduceCtorEq, imp_false,
    not_and_or, not_le, ne_eq]

theorem hostCall_sendProgram {a d : Value} {n : Byte} (ha : scale x = some a) (hd : scale y = some d)
    (hn : programCount count = some n) (s : State) :
    hostCall (.sendProgram x y count) s = exec (.encProgram a d n) s := by
  simp only [hostCall, sendScaled, ha, hd, hn, exec_encProgram, execEncProgram]

theorem hostCall_sendProgram_eq_refused (h : scale x = none ∨ scale y = none ∨ programCount count = none) (s : State) :
    hostCall (.sendProgram x y count) s = .refused .programOutsideDomain := by
  rw [hostCall, sendScaled]
  split
  next hx hy hn => simp [hx, hy, hn] at h
  next => rfl

end Sys2Proof.Machine

open Sys2Proof Sys2Proof.Machine

/-- Settles O44: the frame written out, and the count byte as remainder and as AND. -/
theorem programFrameBytes : Obligations.ProgramFrameBytes := by
  refine ⟨fun a d n s => ?frame, toNat_countByte, countByte_natCast⟩
  case frame => rw [exec_encProgram, programFrame_eq, transmit]

/-- Settles O42: the frame written out. -/
theorem simpleFrameBytes : Obligations.SimpleFrameBytes := by
  intro code s
  rw [exec_encSimple, simpleFrame_eq, transmit]

/-- Settles O43: the name has its code, and the call is ENC.SIMPLE on it. -/
theorem commandNamesAreSimpleFrames : Obligations.CommandNamesAreSimpleFrames := by
  intro s rest name code hmem hin
  have hstep := (step_of_call hin).trans (hostCall_sendCommand (commandCode_of_mem_namedCodes _ hmem) _)
  exact ⟨_, hstep, hstep.trans (simpleFrameBytes code _)⟩

/-- Settles O45: inside, both operands scale and the count has a byte; outside, one of the three has none. -/
theorem programScaling : Obligations.ProgramScaling := by
  intro s rest x y count hin
  refine ⟨fun a d hxv hxp hyv hyp hxa hxa' ha ha' hyd hyd' hd hd' hcount => ?inside, fun h => ?outside⟩
  case inside =>
    have hx := scale_of_scalesTo (x := x) ⟨hxv, hxp, hxa, hxa', ha, ha'⟩
    have hy := scale_of_scalesTo (x := y) ⟨hyv, hyp, hyd, hyd', hd, hd'⟩
    obtain ⟨c, hc⟩ := Option.ne_none_iff_exists'.1 (mt programCount_eq_none_iff.1 hcount)
    have hstep := (step_of_call hin).trans (hostCall_sendProgram hx hy hc _)
    rw [beginStep_none_eq] at hstep
    refine ⟨c, fun n hn => ?_, hstep, hstep.trans (exec_encProgram _ _ _ _)⟩
    exact Option.some_injective _ (hc.symm.trans (programCount_of_num_eq_mul hcount hn))
  case outside =>
    refine (step_of_call hin).trans (hostCall_sendProgram_eq_refused ?_ _)
    rw [scale_eq_none_iff, scale_eq_none_iff, programCount_eq_none_iff]
    tauto

end

section
/-! PROOFS. A parser step is total (R96): the operation of an accepted byte has a next state by R78's premise, and a
control operation has one in every state. -/

namespace Sys2Proof.Machine

variable {s u : State} {p : Signals} {rest : List Input}

/-- Every cell of `idx` 0 to 6 has a next state (R53), END.HIT's by the premise on the called handler (R78). -/
theorem exec_byte_total (hidx : s.idx.toNat ≤ 6) (hreturns : s.handlerReturns) (b : Byte) :
    ∃ t, exec (decodeByteOp s.idx b) s = .next t := by
  by_cases hend : s.idx = 6#3 ∧ b = 0xFF#8
  · obtain ⟨hn, rfl⟩ := hend
    rw [hn, exec_byte_end]
    exact execEndHit_of_handlerReturns hreturns
  · obtain ⟨t, ht, -⟩ := exec_byte_quiet hidx hend
    exact ⟨t, ht⟩

/-- The operation of a parser step has a next state, whichever the priority of events chooses (R96, R99). -/
theorem exec_stepWord_total (hidx : u.idx.toNat ≤ 6) (hreturns : u.handlerReturns) (hn : s.idx = u.idx) :
    ∃ t, exec (decodeStep (stepWord p s)) u = .next t := by
  rw [decodeStep_stepWord, hn]
  split_ifs
  · -- RESET
    exact ⟨_, rfl⟩
  · -- HALTED.HOLD
    exact ⟨_, rfl⟩
  · -- ERR
    exact ⟨_, rfl⟩
  · -- EOS
    exact ⟨_, rfl⟩
  · cases offered p s with
    | none => exact ⟨_, rfl⟩
    | some b => exact exec_byte_total hidx hreturns b

/-- R78's premise reads the host's registry and runs, and `typ`: taking the input does not touch them. -/
theorem handlerReturns_beginParserStep :
    (beginStep p (beginConnection p { s with inputs := rest })).handlerReturns ↔ s.handlerReturns := Iff.rfl

end Sys2Proof.Machine

open Sys2Proof Sys2Proof.Machine

/-- Settles O9: the operation of the step word of R48, by the priority of events. -/
theorem eventPriority : Obligations.EventPriority := by
  intro p s
  rw [decodeStep_stepWord]
  cases offered p s with
  | none => rfl
  | some b => rfl

/-- Settles O11: the operation of the step is total in the state in which it is run, whose `idx` and handlers are those
before the step. -/
theorem everyEventHasANextState : Obligations.EveryEventHasANextState := by
  intro s p rest hin hidx hreturns
  rw [step_of_ports hin]
  exact exec_stepWord_total hidx (handlerReturns_beginParserStep.2 hreturns) rfl

end
